-- ==== Sys2Proof/Word.lean ====
section
/-! DEFINITION. The word types of the block: bytes, 16-bit payload fields and 9-bit byte counts
(spec/00_scope.md rule R5 and section 4; spec/10_state.md rules R9 and R10). -/

namespace Sys2Proof

/-- One byte, the only addressable unit of every space (R5 `BYTE`, R16). -/
abbrev Byte := BitVec 8

/-- The bit pattern of a two-byte payload field, `u16` or `i16` (R18, R29). -/
abbrev Half := BitVec 16

/-- A 9-bit byte count or byte position: `rx_pos`, `tx_pos`, `TX_N` (R9, R10). -/
abbrev Pos := BitVec 9

end Sys2Proof
end

