-- ==== Sys2Proof/Config.lean ====
section
/-! DEFINITION. The constants of the block (spec/00_scope.md rule R5; spec/10_state.md rule R13: there is no
configuration register, everything one might select is a constant). The block has no free value: no rule
leaves the result of an operation open, so there is no opaque constant here (log entry 9 for `ROUND`, which
is a parameter of the software outside the block). -/

namespace Sys2Proof.Config

/-- First header byte (R5 `HDR0`, R26). -/
def hdr0 : Byte := 0x80
/-- Second header byte (R5 `HDR1`, R26). -/
def hdr1 : Byte := 0x81
/-- Source byte of the host (R5 `HOST_SRC`, R37). -/
def hostSrc : Byte := 0x7F
/-- Source byte of the steering actuator (R5 `SRC_STEER`, R37). -/
def srcSteer : Byte := 0x7E
/-- Source byte of the implement controller (R5 `SRC_IMPL`, R37). -/
def srcImpl : Byte := 0x7B
/-- Source byte of the inertial unit (R5 `SRC_IMU`, R37). -/
def srcImu : Byte := 0x79
/-- Bytes of a frame that are not payload: two header bytes, source, id, length, trailer (R5 `OVERHEAD`). -/
def overhead : Nat := 6
/-- The shortest packet the parser looks at (R5 `MIN_FRAME`, R47). -/
def minFrame : Nat := 6
/-- The longest payload a `u8` length byte admits (R5 `MAX_PAYLOAD`). -/
def maxPayload : Nat := 255
/-- The longest frame (R5 `MAX_FRAME`). -/
def maxFrame : Nat := 261
/-- The value at which `rx_pos` saturates (R10). -/
def posMax : Nat := 511
/-- The largest payload count the 16-bit port of `TxBuild` can present (R63). -/
def portCountMax : Nat := 65535
/-- The width of a typed operand port, signed two's complement (R5 `OPW`, R72). -/
def opw : Nat := 32

end Sys2Proof.Config
end

