-- ==== Sys2Proof/Machine/Checksum.lean ====
section
/-! DEFINITION. The checksum the requester calls "CRC-8": a byte sum modulo 256, not a polynomial
(spec/40_checksum.md rules R41 to R46; spec/90_conflicts.md C1, C2, C3). -/

namespace Sys2Proof

/-- `sum8`, the operation `CRC8` (R41, R43): `acc <- 0`, then `acc <- acc + b` for each byte, the carry
out of eight bits discarded. -/
def sum8 (s : List Byte) : Byte := s.foldl (fun acc b => acc + b) 0

/-- `crc_of_packet` (R42): the sum over the indices `2 .. n-2` of a packet of `n` bytes, `n` taken from the
delivery. -/
def crcOfPacket (bs : List Byte) : Byte := sum8 ((bs.take (bs.length - 1)).drop 2)

/-- `crc_of_frame` (R42): the sum over source, id, length byte and payload. -/
def crcOfFrame (src id : Byte) (pay : List Byte) : Byte :=
  sum8 ([src, id, BitVec.ofNat 8 pay.length] ++ pay)

end Sys2Proof
end

