-- ==== Sys2Proof/Machine/Frame.lean ====
section
/-! DEFINITION. The two functions of the frame level: `FRAME.PARSE` (spec/41_frame_parse.md rules R47 to
R52) and `FRAME.BUILD` (spec/42_frame_build.md rules R59 to R62), and well-formedness
(spec/30_encoding.md rule R27). They are the normative behaviour (R2, R3); the sequencers of
Machine/Ops.lean are bound to compute the same. -/

namespace Sys2Proof

/-- The record an accepted packet gives (R47, R51). -/
structure Frame where
  src : Byte
  id : Byte
  len : Byte
  pay : List Byte
  deriving DecidableEq, Repr

/-- Which test a rejected packet failed first (R47, R100). All four are silent: the result is "no message". -/
inductive ParseError where
  | short | header | checksum | length
  deriving DecidableEq, Repr

/-- The three error classes the block can raise, of the document's nine (R94). -/
inductive ErrorClass where
  | malformedFrame | checksumMismatch | invalidArgument
  deriving DecidableEq, Repr

/-- The class of a receive error (R95, R96). -/
def ParseError.errorClass : ParseError → ErrorClass
  | .short | .header | .length => .malformedFrame
  | .checksum => .checksumMismatch

/-- The one error of a build, `InvalidArgument`; it has no sub-code (R71, R97). -/
inductive BuildError where
  | invalidArgument
  deriving DecidableEq, Repr

/-- Well-formedness of a byte sequence, clause by clause as R27 writes it. -/
abbrev WellFormedPacket (bs : List Byte) : Prop :=
  6 ≤ bs.length ∧ bs[0]? = some Config.hdr0 ∧ bs[1]? = some Config.hdr1 ∧
  bs[bs.length - 1]? = some (crcOfPacket bs) ∧ (bs[4]?).map BitVec.toNat = some (bs.length - 6)

/-- `FRAME.PARSE` (R47): length at least 6, header, checksum over `bs[2 .. n-2]`, length byte, in this order
(R48); total on every byte sequence (R49). The pattern of six bytes IS the first test. -/
def frameParse : List Byte → Except ParseError Frame
  | b0 :: b1 :: b2 :: b3 :: b4 :: b5 :: rest =>
    if b0 ≠ Config.hdr0 ∨ b1 ≠ Config.hdr1 then .error .header
    else if crcOfPacket (b0 :: b1 :: b2 :: b3 :: b4 :: b5 :: rest)
        ≠ (b5 :: rest).getLast (List.cons_ne_nil b5 rest) then .error .checksum
    else if b4.toNat ≠ rest.length then .error .length
    else .ok { src := b2, id := b3, len := b4, pay := (b5 :: rest).dropLast }
  | _ => .error .short

/-- The bytes `FRAME.BUILD` writes to `TXPKT`, index 0 first (R17, R59). -/
def frameBytes (src id : Byte) (pay : List Byte) : List Byte :=
  [Config.hdr0, Config.hdr1, src, id, BitVec.ofNat 8 pay.length] ++ pay ++ [crcOfFrame src id pay]

/-- `FRAME.BUILD` (R59): a payload of more than 255 bytes is refused, never truncated (R60). -/
def frameBuild (src id : Byte) (pay : List Byte) : Except BuildError (List Byte) :=
  if Config.maxPayload < pay.length then .error .invalidArgument else .ok (frameBytes src id pay)

end Sys2Proof
end

