-- ==== Sys2Proof/Machine/Operands.lean ====
section
/-! DEFINITION. Operand forms: the field primitives of spec/43_typed_layer.md rule R73 over a byte space, the
field types of spec/30_encoding.md rule R29, and the range checks of R71. All multi-byte fields are big-endian
(R18); no access has an alignment requirement (R20). -/

namespace Sys2Proof

/-- `MemRead(S:a, 1)`: no value outside the space (R21). -/
def memRead1 (space : List Byte) (a : Nat) : Option Byte := space[a]?

/-- `MemRead(S:a, 2)`: the byte at the lower index is the more significant (R18). -/
def memRead2 (space : List Byte) (a : Nat) : Option Half :=
  match space[a]?, space[a + 1]? with
  | some hi, some lo => some (hi ++ lo)
  | _, _ => none

/-- `zext_8`: the integer a `u8` field holds (R29). -/
def zext8 (b : Byte) : Int := b.toNat

/-- `zext_16`: the integer a `u16` field holds (R29). -/
def zext16 (h : Half) : Int := h.toNat

/-- `sext_16`: the integer an `i16` field holds, two's complement (R29; K1 of
spec/93_implementation_defined.md). -/
def sext16 (h : Half) : Int := if h.toNat < 32768 then h.toNat else (h.toNat : Int) - 65536

/-- `get_u8(a)` (R73). -/
def getU8 (space : List Byte) (a : Nat) : Option Int := (memRead1 space a).map zext8

/-- `get_u16(a)` (R73). -/
def getU16 (space : List Byte) (a : Nat) : Option Int := (memRead2 space a).map zext16

/-- `get_i16(a)` (R73). -/
def getI16 (space : List Byte) (a : Nat) : Option Int := (memRead2 space a).map sext16

/-- The integers of the array field `u8[k]` at offset `a` (R29). -/
def getArray (space : List Byte) (a k : Nat) : List Int := ((space.drop a).take k).map zext8

/-- The bytes of `MemWrite(S:a, 2, v)`, lower index first (R18). -/
def bytesOfHalf (h : Half) : List Byte := [h.extractLsb' 8 8, h.extractLsb' 0 8]

/-- The byte `put_u8` writes (R73); its operand has passed the range check. -/
def putU8 (v : Int) : List Byte := [BitVec.ofInt 8 v]

/-- The bytes `put_u16` writes (R73). -/
def putU16 (v : Int) : List Byte := bytesOfHalf (BitVec.ofInt 16 v)

/-- The bytes `put_i16` writes: the pattern `v mod 65536` (R73). -/
def putI16 (v : Int) : List Byte := bytesOfHalf (BitVec.ofInt 16 v)

/-- One `put_u8` per element, in order (R29 row `u8[k]`). -/
def putArray (vs : List Int) : List Byte := vs.map (BitVec.ofInt 8)

/-- The bytes a build writes into a reserved item (R35). -/
def putReserved (k : Nat) : List Byte := List.replicate k 0

/-- R71, row `u8`. -/
def fitsU8 (v : Int) : Bool := decide (0 ≤ v ∧ v ≤ 255)

/-- R71, row `u16`; its lower bound is the document's "negative speed". -/
def fitsU16 (v : Int) : Bool := decide (0 ≤ v ∧ v ≤ 65535)

/-- R71, row `i16`. -/
def fitsI16 (v : Int) : Bool := decide (-32768 ≤ v ∧ v ≤ 32767)

/-- R71, row `u8[k]` with `k` fixed: exactly `k` elements, each a `u8`. -/
def fitsArray (k : Nat) (vs : List Int) : Bool := vs.length == k && vs.all fitsU8

/-- R71, row `u8[N]`: at most 238 sections, each a `u8`. -/
def fitsSections (vs : List Int) : Bool := decide (vs.length ≤ 238) && vs.all fitsU8

/-- A scalar operand the signed 32-bit port can present (R72; W9 of spec/93_implementation_defined.md). -/
def fitsPort (v : Int) : Bool :=
  decide (-(2 ^ (Config.opw - 1) : Int) ≤ v ∧ v < (2 ^ (Config.opw - 1) : Int))

end Sys2Proof
end

