-- ==== Sys2Proof/Machine/Catalog.lean ====
section
/-! DEFINITION. The message catalog (spec/30_encoding.md rules R31 to R37), the kind codes
(spec/10_state.md rule R12) and the originators (spec/43_typed_layer.md rule R77). -/

namespace Sys2Proof

/-- The 13 catalog entries of R31; the catalog is closed (R36). -/
inductive Entry where
  | steerCmd | steerSet | steerFb | implData | implCfg | implFb | imuCfg | imuData
  | helloHost | scanReq | helloSteer | helloImpl | helloImu
  deriving DecidableEq, Repr

/-- What `RX_KIND` can be (R12). Code 15 is reserved and is no value of the type (W4 of
spec/93_implementation_defined.md). -/
inductive Kind where
  | none
  | generic
  | entry (e : Entry)
  deriving DecidableEq, Repr

/-- The closed set of field modules a hello can name (spec/00_scope.md glossary, R93). -/
inductive ModuleKind where
  | steeringActuator | implementController | inertialUnit
  deriving DecidableEq, Repr

/-- The payload length an entry admits: one fixed length, or any length from a minimum up (R31). -/
inductive LengthRule where
  | fixed (n : Nat)
  | atLeast (n : Nat)
  deriving DecidableEq, Repr

/-- Every catalog entry, in the order of R31. -/
def Entry.all : List Entry :=
  [.steerCmd, .steerSet, .steerFb, .implData, .implCfg, .implFb, .imuCfg, .imuData,
   .helloHost, .scanReq, .helloSteer, .helloImpl, .helloImu]

/-- `ID_OF`: the messageId column of R31. -/
def Entry.id : Entry → Byte
  | .steerCmd => 254
  | .steerSet => 252
  | .steerFb => 253
  | .implData => 239
  | .implCfg => 238
  | .implFb => 234
  | .imuCfg => 218
  | .imuData => 219
  | .helloHost => 200
  | .scanReq => 202
  | .helloSteer => 126
  | .helloImpl => 123
  | .helloImu => 121

/-- The payload length column of R31, kept as one table (U13 of spec/93_implementation_defined.md). -/
def Entry.lengthRule : Entry → LengthRule
  | .steerCmd => .fixed 9
  | .steerSet => .fixed 12
  | .steerFb => .fixed 8
  | .implData => .atLeast 17
  | .implCfg => .fixed 6
  | .implFb => .fixed 2
  | .imuCfg => .fixed 4
  | .imuData => .fixed 16
  | .helloHost => .fixed 3
  | .scanReq => .fixed 2
  | .helloSteer => .fixed 3
  | .helloImpl => .fixed 3
  | .helloImu => .fixed 3

/-- `SRC_OF`: the source byte a typed build writes (R77). No parser consults it (R37). -/
def Entry.source : Entry → Byte
  | .steerCmd | .steerSet | .implData | .implCfg | .imuCfg | .helloHost | .scanReq => Config.hostSrc
  | .steerFb | .helloSteer => Config.srcSteer
  | .implFb | .helloImpl => Config.srcImpl
  | .imuData | .helloImu => Config.srcImu

/-- Does payload length `n` fit the rule? -/
def LengthRule.fits : LengthRule → Nat → Bool
  | .fixed k, n => n == k
  | .atLeast k, n => decide (k ≤ n)

/-- The catalog entry of a messageId, if the catalog has it (R31). -/
def Entry.ofId (id : Byte) : Option Entry := Entry.all.find? (fun e => e.id == id)

/-- `classify(id, L)` (R32, R33, R34): reads the id and the length only. -/
def classify (id : Byte) (len : Nat) : Kind :=
  match Entry.ofId id with
  | none => .generic
  | some e => if e.lengthRule.fits len then .entry e else .none

/-- The 4-bit code of a kind (R12). -/
def Kind.code : Kind → BitVec 4
  | .none => 0
  | .generic => 1
  | .entry .steerCmd => 2
  | .entry .steerSet => 3
  | .entry .steerFb => 4
  | .entry .implData => 5
  | .entry .implCfg => 6
  | .entry .implFb => 7
  | .entry .imuCfg => 8
  | .entry .imuData => 9
  | .entry .helloHost => 10
  | .entry .scanReq => 11
  | .entry .helloSteer => 12
  | .entry .helloImpl => 13
  | .entry .helloImu => 14

/-- The module a hello entry names, if it is a module hello (R93). -/
def Entry.helloModule : Entry → Option ModuleKind
  | .helloSteer => some .steeringActuator
  | .helloImpl => some .implementController
  | .helloImu => some .inertialUnit
  | .steerCmd | .steerSet | .steerFb | .implData | .implCfg | .implFb | .imuCfg | .imuData
  | .helloHost | .scanReq => none

end Sys2Proof
end

