-- ==== Sys2Proof/Syntax.lean ====
section
/-! DEFINITION. The instructions: one constructor per row of spec/opcode_table.json. In this block an
instruction is a frame (spec/30_encoding.md section 1, rules R25, R31): its opcode is the `messageId` byte
with the `length` byte and its operands are the payload fields. A term holds EVERY bit of the frame that the
kind does not fix: the source byte (any value, R37), each named field as the bit pattern that stands in the
payload (R29), and the reserved bytes, whose content a parse accepts whatever it is (R35). The header bytes,
the id (but for `generic`), the length byte and the trailer follow from the rest and are not operands. -/

namespace Sys2Proof

/-- A frame of the catalog, or a generic frame. Lengths of the byte lists are checked by `Instr.wellFormed`. -/
inductive Instr where
  /-- `STEER_CMD`, id 254 (R79): two reserved bytes. -/
  | steerCmd (src : Byte) (speed : Half) (status : Byte) (steerAngle crossTrackError : Half)
      (reserved : List Byte)
  /-- `STEER_SET`, id 252 (R80): twelve opaque bytes. -/
  | steerSet (src : Byte) (raw : List Byte)
  /-- `STEER_FB`, id 253 (R81): four reserved bytes. -/
  | steerFb (src : Byte) (actualAngle : Half) (switchStates statusFlags : Byte) (reserved : List Byte)
  /-- `IMPL_DATA`, id 239 (R82): two relay banks of eight bytes, the tramline byte, 0 to 238 section bytes. -/
  | implData (src : Byte) (relayLo relayHi : List Byte) (tramline : Byte) (sections : List Byte)
  /-- `IMPL_CFG`, id 238 (R83): six opaque bytes. -/
  | implCfg (src : Byte) (raw : List Byte)
  /-- `IMPL_FB`, id 234 (R84): two opaque bytes. -/
  | implFb (src : Byte) (raw : List Byte)
  /-- `IMU_CFG`, id 218 (R85): four opaque bytes. -/
  | imuCfg (src : Byte) (raw : List Byte)
  /-- `IMU_DATA`, id 219 (R86): seven reserved bytes. -/
  | imuData (src : Byte) (roll pitch heading yawRate : Half) (calibrated : Byte) (reserved : List Byte)
  /-- `HELLO_HOST`, id 200 (R87): three opaque bytes. -/
  | helloHost (src : Byte) (raw : List Byte)
  /-- `SCAN_REQ`, id 202 (R88): two opaque bytes. -/
  | scanReq (src : Byte) (raw : List Byte)
  /-- `HELLO_STEER`, id 126 (R89): two reserved bytes. -/
  | helloSteer (src : Byte) (version : Byte) (reserved : List Byte)
  /-- `HELLO_IMPL`, id 123 (R90): two reserved bytes. -/
  | helloImpl (src : Byte) (version : Byte) (reserved : List Byte)
  /-- `HELLO_IMU`, id 121 (R91): two reserved bytes. -/
  | helloImu (src : Byte) (version : Byte) (reserved : List Byte)
  /-- `GENERIC`, any id outside the catalog (R92): the raw payload, 0 to 255 bytes. -/
  | generic (src : Byte) (id : Byte) (pay : List Byte)
  deriving DecidableEq, Repr

end Sys2Proof
end

