-- ==== Sys2Proof/WellFormed.lean ====
section
/-! DEFINITION. When a term of `Instr` stands for a frame: its byte lists have the lengths the catalog gives
(spec/30_encoding.md rules R29, R31; spec/44 to 47) and a generic frame's id is outside the catalog (R92). -/

namespace Sys2Proof

/-- The term denotes a frame of its kind. -/
def Instr.wellFormed : Instr → Bool
  | .steerCmd _ _ _ _ _ reserved => reserved.length == 2
  | .steerSet _ raw => raw.length == 12
  | .steerFb _ _ _ _ reserved => reserved.length == 4
  | .implData _ relayLo relayHi _ sections =>
      relayLo.length == 8 && relayHi.length == 8 && decide (sections.length ≤ 238)
  | .implCfg _ raw => raw.length == 6
  | .implFb _ raw => raw.length == 2
  | .imuCfg _ raw => raw.length == 4
  | .imuData _ _ _ _ _ _ reserved => reserved.length == 7
  | .helloHost _ raw => raw.length == 3
  | .scanReq _ raw => raw.length == 2
  | .helloSteer _ _ reserved => reserved.length == 2
  | .helloImpl _ _ reserved => reserved.length == 2
  | .helloImu _ _ reserved => reserved.length == 2
  | .generic _ id pay => (Entry.ofId id).isNone && decide (pay.length ≤ 255)

end Sys2Proof
end

