-- ==== Sys2Proof/Decode.lean ====
section
/-! DEFINITION. Decoding a packet into an instruction, total on any bytes and rejecting by name, and the
encoder, both from the catalog's layouts (spec/30_encoding.md rules R25 to R40; spec/44 to 47). Also the rows
of spec/opcode_table.json under the convention of R39, and the host's reading of a table word. -/

namespace Sys2Proof

/-! ### The payload layouts (R40: listed order, packed from offset 0, the reserved item last) -/

/-- Layout of `STEER_CMD` (R79): speed at 0, status at 2, steerAngle at 3, crossTrackError at 5, reserved at 7. -/
def packSteerCmd (speed : Half) (status : Byte) (steerAngle crossTrackError : Half)
    (reserved : List Byte) : List Byte :=
  bytesOfHalf speed ++ [status] ++ bytesOfHalf steerAngle ++ bytesOfHalf crossTrackError ++ reserved

/-- Layout of `STEER_FB` (R81): actualAngle at 0, switchStates at 2, statusFlags at 3, reserved at 4. -/
def packSteerFb (actualAngle : Half) (switchStates statusFlags : Byte) (reserved : List Byte) : List Byte :=
  bytesOfHalf actualAngle ++ [switchStates, statusFlags] ++ reserved

/-- Layout of `IMPL_DATA` (R82): relayLo at 0, relayHi at 8, tramline at 16, sections at 17. -/
def packImplData (relayLo relayHi : List Byte) (tramline : Byte) (sections : List Byte) : List Byte :=
  relayLo ++ relayHi ++ [tramline] ++ sections

/-- Layout of `IMU_DATA` (R86): roll at 0, pitch at 2, heading at 4, yawRate at 6, calibrated at 8, reserved
at 9. -/
def packImuData (roll pitch heading yawRate : Half) (calibrated : Byte) (reserved : List Byte) : List Byte :=
  bytesOfHalf roll ++ bytesOfHalf pitch ++ bytesOfHalf heading ++ bytesOfHalf yawRate ++ [calibrated]
    ++ reserved

/-- Layout of the three module hellos (R89, R90, R91): version at 0, reserved at 1. -/
def packHello (version : Byte) (reserved : List Byte) : List Byte := version :: reserved

/-! ### Decoding -/

/-- Why a packet is no instruction: one of the parser's tests failed (R47), or the frame is well-formed and
classifies as `NONE`, a catalog id with a length that does not fit (R34). -/
inductive DecodeError where
  | parse (e : ParseError)
  | lengthDoesNotFit
  deriving DecidableEq, Repr

/-- The operands of a catalog frame, read at the constant offsets of its layout (R73). The classified length
guarantees that every read lies inside the payload (R21). -/
def decodeEntry (e : Entry) (src : Byte) (pay : List Byte) : Option Instr :=
  match e with
  | .steerCmd => do
      return .steerCmd src (← memRead2 pay 0) (← memRead1 pay 2) (← memRead2 pay 3) (← memRead2 pay 5)
        (pay.drop 7)
  | .steerSet => some (.steerSet src pay)
  | .steerFb => do
      return .steerFb src (← memRead2 pay 0) (← memRead1 pay 2) (← memRead1 pay 3) (pay.drop 4)
  | .implData => do
      return .implData src (pay.take 8) ((pay.drop 8).take 8) (← memRead1 pay 16) (pay.drop 17)
  | .implCfg => some (.implCfg src pay)
  | .implFb => some (.implFb src pay)
  | .imuCfg => some (.imuCfg src pay)
  | .imuData => do
      return .imuData src (← memRead2 pay 0) (← memRead2 pay 2) (← memRead2 pay 4) (← memRead2 pay 6)
        (← memRead1 pay 8) (pay.drop 9)
  | .helloHost => some (.helloHost src pay)
  | .scanReq => some (.scanReq src pay)
  | .helloSteer => do return .helloSteer src (← memRead1 pay 0) (pay.drop 1)
  | .helloImpl => do return .helloImpl src (← memRead1 pay 0) (pay.drop 1)
  | .helloImu => do return .helloImu src (← memRead1 pay 0) (pay.drop 1)

/-- The instruction a well-formed frame is, by classification of its id and length byte (R32). -/
def decodeFrame (f : Frame) : Option Instr :=
  match classify f.id f.len.toNat with
  | .none => none
  | .generic => some (.generic f.src f.id f.pay)
  | .entry e => decodeEntry e f.src f.pay

/-- The decoder: `FRAME.PARSE`, then classification. -/
def decode (bs : List Byte) : Except DecodeError Instr :=
  match frameParse bs with
  | .error e => .error (.parse e)
  | .ok f =>
    match decodeFrame f with
    | none => .error .lengthDoesNotFit
    | some i => .ok i

/-! ### Encoding -/

/-- The source byte of a frame (R26). -/
def Instr.source : Instr → Byte
  | .steerCmd src _ _ _ _ _ => src
  | .steerSet src _ => src
  | .steerFb src _ _ _ _ => src
  | .implData src _ _ _ _ => src
  | .implCfg src _ => src
  | .implFb src _ => src
  | .imuCfg src _ => src
  | .imuData src _ _ _ _ _ _ => src
  | .helloHost src _ => src
  | .scanReq src _ => src
  | .helloSteer src _ _ => src
  | .helloImpl src _ _ => src
  | .helloImu src _ _ => src
  | .generic src _ _ => src

/-- The kind of a frame (R12, R31). -/
def Instr.kind : Instr → Kind
  | .steerCmd .. => .entry .steerCmd
  | .steerSet .. => .entry .steerSet
  | .steerFb .. => .entry .steerFb
  | .implData .. => .entry .implData
  | .implCfg .. => .entry .implCfg
  | .implFb .. => .entry .implFb
  | .imuCfg .. => .entry .imuCfg
  | .imuData .. => .entry .imuData
  | .helloHost .. => .entry .helloHost
  | .scanReq .. => .entry .scanReq
  | .helloSteer .. => .entry .helloSteer
  | .helloImpl .. => .entry .helloImpl
  | .helloImu .. => .entry .helloImu
  | .generic .. => .generic

/-- The messageId of a frame (R31). -/
def Instr.id : Instr → Byte
  | .steerCmd .. => Entry.steerCmd.id
  | .steerSet .. => Entry.steerSet.id
  | .steerFb .. => Entry.steerFb.id
  | .implData .. => Entry.implData.id
  | .implCfg .. => Entry.implCfg.id
  | .implFb .. => Entry.implFb.id
  | .imuCfg .. => Entry.imuCfg.id
  | .imuData .. => Entry.imuData.id
  | .helloHost .. => Entry.helloHost.id
  | .scanReq .. => Entry.scanReq.id
  | .helloSteer .. => Entry.helloSteer.id
  | .helloImpl .. => Entry.helloImpl.id
  | .helloImu .. => Entry.helloImu.id
  | .generic _ id _ => id

/-- The payload bytes of a frame. -/
def Instr.payload : Instr → List Byte
  | .steerCmd _ speed status steerAngle crossTrackError reserved =>
      packSteerCmd speed status steerAngle crossTrackError reserved
  | .steerSet _ raw => raw
  | .steerFb _ actualAngle switchStates statusFlags reserved =>
      packSteerFb actualAngle switchStates statusFlags reserved
  | .implData _ relayLo relayHi tramline sections => packImplData relayLo relayHi tramline sections
  | .implCfg _ raw => raw
  | .implFb _ raw => raw
  | .imuCfg _ raw => raw
  | .imuData _ roll pitch heading yawRate calibrated reserved =>
      packImuData roll pitch heading yawRate calibrated reserved
  | .helloHost _ raw => raw
  | .scanReq _ raw => raw
  | .helloSteer _ version reserved => packHello version reserved
  | .helloImpl _ version reserved => packHello version reserved
  | .helloImu _ version reserved => packHello version reserved
  | .generic _ _ pay => pay

/-- The encoder: the packet of an instruction, index 0 first (R17, R25). -/
def encode (i : Instr) : List Byte := frameBytes i.source i.id i.payload

/-! ### The rows of spec/opcode_table.json (R39) -/

/-- One row: a match and a mask over the 40-bit header word, the smallest length byte, the excluded ids. -/
structure TableRow where
  kind : Kind
  matchBits : BitVec 40
  mask : BitVec 40
  lenMin : Nat
  excludeIds : List Byte
  deriving DecidableEq, Repr

/-- The 14 rows, letter for letter. -/
def opcodeTable : List TableRow :=
  [⟨.entry .steerCmd, 0x808100FE09, 0xFFFF00FFFF, 0, []⟩,
   ⟨.entry .steerSet, 0x808100FC0C, 0xFFFF00FFFF, 0, []⟩,
   ⟨.entry .steerFb, 0x808100FD08, 0xFFFF00FFFF, 0, []⟩,
   ⟨.entry .implData, 0x808100EF00, 0xFFFF00FF00, 17, []⟩,
   ⟨.entry .implCfg, 0x808100EE06, 0xFFFF00FFFF, 0, []⟩,
   ⟨.entry .implFb, 0x808100EA02, 0xFFFF00FFFF, 0, []⟩,
   ⟨.entry .imuCfg, 0x808100DA04, 0xFFFF00FFFF, 0, []⟩,
   ⟨.entry .imuData, 0x808100DB10, 0xFFFF00FFFF, 0, []⟩,
   ⟨.entry .helloHost, 0x808100C803, 0xFFFF00FFFF, 0, []⟩,
   ⟨.entry .scanReq, 0x808100CA02, 0xFFFF00FFFF, 0, []⟩,
   ⟨.entry .helloSteer, 0x8081007E03, 0xFFFF00FFFF, 0, []⟩,
   ⟨.entry .helloImpl, 0x8081007B03, 0xFFFF00FFFF, 0, []⟩,
   ⟨.entry .helloImu, 0x8081007903, 0xFFFF00FFFF, 0, []⟩,
   ⟨.generic, 0x8081000000, 0xFFFF000000, 0,
    [254, 252, 253, 239, 238, 234, 218, 219, 200, 202, 126, 123, 121]⟩]

/-- The 40-bit header word of R39, byte 0 most significant. -/
def headerWord (b0 b1 src id len : Byte) : BitVec 40 := b0 ++ b1 ++ src ++ id ++ len

/-- Does a row apply to a header word (R39)? -/
def TableRow.applies (r : TableRow) (p : BitVec 40) : Bool :=
  (p &&& r.mask) == r.matchBits && decide (r.lenMin ≤ (p.extractLsb' 0 8).toNat)
    && !(r.excludeIds.contains (p.extractLsb' 8 8))

/-- The kinds of the rows that apply; no row stands for `NONE` (R39). -/
def tableKinds (p : BitVec 40) : List Kind := (opcodeTable.filter (·.applies p)).map (·.kind)

/-! ### Reading a table word (log entry 7) -/

/-- The bytes of a number of `nbits` bits, least significant first. -/
def wordBytes (nbits w : Nat) : List Byte :=
  (List.range ((nbits + 7) / 8)).map fun k => BitVec.ofNat 8 (w / 256 ^ k)

/-- The length byte a table word stands for. The row of a variable-length entry masks the length byte out and gives
its smallest value beside the match (R39 `len_min`), so a word of that row with the byte left at 0, which no frame of
the row has, stands for the row's shortest frame. Every other word keeps its length byte. -/
def tableLength (id len : Byte) : Byte :=
  match (Entry.ofId id).map Entry.lengthRule with
  | some (.atLeast n) => if len = 0 then BitVec.ofNat 8 n else len
  | some (.fixed _) | none => len

/-- The packet a table word stands for. A row's word is the header of a frame, `80 81 src id L`, and R39 makes
byte 0 its most significant byte; a word whose least significant byte is byte 0 is read that way. A row gives
the header only and applies to a well-formed packet, so the payload bytes above the word are 0 and the trailer is
the sum R27 demands; a word that already holds more than `5 + L` bytes is taken as the whole packet. -/
def tablePacket (nbits w : Nat) : List Byte :=
  let le := wordBytes nbits w
  let be := le.reverse
  let bs := if be.take 2 = [Config.hdr0, Config.hdr1] then be else le
  match bs with
  | b0 :: b1 :: src :: id :: b4 :: rest =>
    let len := tableLength id b4
    if len.toNat < rest.length then bs
    else
      let pay := rest ++ List.replicate (len.toNat - rest.length) 0
      [b0, b1, src, id, len] ++ pay ++ [sum8 ([src, id, len] ++ pay)]
  | _ => bs

/-- The instruction the decoder reads from a table word. -/
def decodeTableWord (nbits w : Nat) : Option Instr :=
  match decode (tablePacket nbits w) with
  | .ok i => some i
  | .error _ => none

end Sys2Proof
end

