-- ==== Sys2Proof/Machine/Message.lean ====
section
/-! DEFINITION. The typed message of spec/43_typed_layer.md rule R67. Every field is the integer that stands in
the payload (R72); reserved bytes and the source byte are not fields (R35, R37). -/

namespace Sys2Proof

/-- The record of a catalog entry: what `MSG.PARSE.<kind>` returns and the operands `MSG.BUILD.<kind>` takes
(R67, R70). As operands the integers and the array lengths are unrestricted; R71 checks them. -/
inductive Record where
  | steerCmd (speed status steerAngle crossTrackError : Int)
  | steerSet (raw : List Int)
  | steerFb (actualAngle switchStates statusFlags : Int)
  | implData (relayLo relayHi : List Int) (tramline : Int) (sections : List Int)
  | implCfg (raw : List Int)
  | implFb (raw : List Int)
  | imuCfg (raw : List Int)
  | imuData (roll pitch heading yawRate calibrated : Int)
  | helloHost (raw : List Int)
  | scanReq (raw : List Int)
  | helloSteer (version : Int)
  | helloImpl (version : Int)
  | helloImu (version : Int)
  deriving DecidableEq, Repr

/-- `TypedMessage` (R67): a catalog record, or a generic frame with its id and raw payload. -/
inductive TypedMessage where
  | record (r : Record)
  | generic (id : Byte) (pay : List Byte)
  deriving DecidableEq, Repr

end Sys2Proof
end

