-- ==== Sys2Proof/Machine/State.lean ====
section
/-! DEFINITION. The state of the block as plain data (spec/10_state.md rules R7 to R15), the environment's
side of its ports, the reasons a step or a read stops, and the state after reset
(spec/70_reset_and_hazards.md rule R107). -/

namespace Sys2Proof.Machine

/-- `RX_STATUS` (R11). Code 7 is reserved, produced by no rule, and is no value of the type (W4). -/
inductive RxStatus where
  | idle | busy | ok | errShort | errHeader | errChecksum | errLength
  deriving DecidableEq, Repr

/-- `TX_STATUS` (R11). -/
inductive TxStatus where
  | idle | busy | done | errInvalidArgument
  deriving DecidableEq, Repr

/-- A byte buffer as (index, byte) pairs with strictly rising indices. An index that is not listed holds NO
VALUE, the spec's own state of a buffer byte (R15): so nothing is listed after reset, and no listed entry
equals what an unlisted index reads as. -/
abbrev Memory := List Host.Cell

/-- A build request at the TX port: the operands of `TxBuild` (R7, R63), or of a typed build, which is the
`TxBuild` that `MSG.BUILD.<kind>` computes (R70). -/
inductive TxRequest where
  | frame (src id : Byte) (pay : List Byte)
  | typed (r : Record)
  deriving DecidableEq, Repr

/-- The four events of R7; each is one step. -/
inductive Event where
  /-- One byte of the current packet, `last` on its final byte (R53, R54). -/
  | rxByte (b : Byte) (last : Bool)
  /-- A build request (R63). -/
  | txBuild (r : TxRequest)
  /-- The TX unit hands out one byte (R64): its own move, which needs no input (R7). -/
  | txEmit
  /-- Reset of both units (R107). -/
  | reset
  deriving DecidableEq, Repr

/-- One output of `TxEmit` (R64). -/
structure TxOut where
  byte : Byte
  last : Bool
  deriving DecidableEq, Repr

/-- The machine. The first twelve fields are the block's registers; the last three are the environment's side
of the ports (the model's own, log entry 1). -/
structure State where
  /-- `RX_STATUS`, 3 bits (R8, R11). -/
  rxStatus : RxStatus
  /-- `RX_SRC` (R8): has a value only while `RX_STATUS = OK` (R15). -/
  rxSrc : Byte
  /-- `RX_ID` (R8). -/
  rxId : Byte
  /-- `RX_LEN` (R8). -/
  rxLen : Byte
  /-- `RX_PAY[0..254]`, the space `RXPAY` (R8, R16). -/
  rxPay : Memory
  /-- `rx_pos` (R10). -/
  rxPos : Pos
  /-- `rx_acc` (R14). -/
  rxAcc : Byte
  /-- `rx_hdr_ok` (R14). -/
  rxHdrOk : Bool
  /-- `TX_STATUS`, 2 bits (R9, R11). -/
  txStatus : TxStatus
  /-- `TX_N` (R9): has a value only while `TX_STATUS` is `BUSY` or `DONE` (R15). -/
  txN : Pos
  /-- `TX_PKT[0..260]`, the space `TXPKT` (R9, R16). -/
  txPkt : Memory
  /-- `tx_pos` (R10). -/
  txPos : Pos
  /-- The events to come, next one first: what the environment will present, and where among it the TX unit moves. With
  none left the TX unit moves by itself while it is `BUSY` (log entry 1). -/
  events : List Event
  /-- The build requests the environment holds because the TX unit was `BUSY` (R66), oldest first. -/
  held : List TxRequest
  /-- What `TxEmit` has handed to the environment, oldest first (R64). -/
  out : List TxOut
  deriving DecidableEq, Repr

/-- A result register that holds a value only at certain times (R15). -/
inductive Port where
  | rxSrc | rxId | rxLen | rxPay (k : Nat) | txN | txPkt (k : Nat)
  deriving DecidableEq, Repr

/-- Why a step or a read stops. -/
inductive Fault where
  /-- A read of a result register while it holds no value (R15; W1, W2, W8): raised by the read ports, and by
  `TxEmit` if `TX_PKT` lacked a byte, which no reachable state does. Safe: nothing is claimed of the bits a
  circuit would show. -/
  | noValue (p : Port)
  /-- A typed view of entry `e` read while `RX_KIND` is another kind (R78; W3). Safe. -/
  | otherKind (e : Entry)
  /-- `TxEmit` presented while `TX_STATUS` is not `BUSY`: the event is not enabled, there is no such step (R7,
  R64; W6 `stuck`). Raised by the step. Safe. -/
  | txEmitNotEnabled
  deriving DecidableEq, Repr

/-- Why a step has no meaning. -/
inductive Refusal where
  /-- An instruction without a meaning yet, by its mnemonic. No arm uses it. -/
  | notModelled (mnemonic : String)
  /-- A build request the port cannot present: a payload count above 65535, or a typed operand outside the signed
  32-bit range (R63, R72; W9 `refuse`). Raised by the step. Safe. -/
  | notPresentable
  deriving DecidableEq, Repr

/-- The state after reset (R107). `RX_SRC`, `RX_ID`, `RX_LEN` and `TX_N` have no value then, which their read
ports enforce (R15); the 0 stored here is a DESIGN CHOICE (log entry 2) that no port shows. -/
def State.reset : State :=
  { rxStatus := .idle, rxSrc := 0, rxId := 0, rxLen := 0, rxPay := [], rxPos := 0, rxAcc := 0,
    rxHdrOk := false, txStatus := .idle, txN := 0, txPkt := [], txPos := 0,
    events := [], held := [], out := [] }

end Sys2Proof.Machine
end

