-- ==== Sys2Proof/Machine/Flags.lean ====
section
/-! DEFINITION. Status computations: the codes of spec/10_state.md rules R11 and R12, the verdict that ends a
packet (spec/41_frame_parse.md rule R54), and `RX_KIND` (spec/43_typed_layer.md rule R78). Nothing else writes a
status, and no operation writes one as a side effect (R11). -/

namespace Sys2Proof.Machine

/-- The 3-bit code of `RX_STATUS` (R11). -/
def RxStatus.code : RxStatus → BitVec 3
  | .idle => 0
  | .busy => 1
  | .ok => 2
  | .errShort => 3
  | .errHeader => 4
  | .errChecksum => 5
  | .errLength => 6

/-- The 2-bit code of `TX_STATUS` (R11). -/
def TxStatus.code : TxStatus → BitVec 2
  | .idle => 0
  | .busy => 1
  | .done => 2
  | .errInvalidArgument => 3

/-- The status code of a receive error (R11, R94). -/
def rxStatusOf : ParseError → RxStatus
  | .short => .errShort
  | .header => .errHeader
  | .checksum => .errChecksum
  | .length => .errLength

/-- The document's error class that a receive status stands for (R11, R94, R95, R96). -/
def RxStatus.errorClass : RxStatus → Option ErrorClass
  | .errShort | .errHeader | .errLength => some .malformedFrame
  | .errChecksum => some .checksumMismatch
  | .idle | .busy | .ok => none

/-- The document's error class that a transmit status stands for (R11, R94, R97). -/
def TxStatus.errorClass : TxStatus → Option ErrorClass
  | .errInvalidArgument => some .invalidArgument
  | .idle | .busy | .done => none

/-- The status the final byte `b` of a packet gives (R54): the first failing test in the order short, header,
checksum, length (R100), else `OK`. -/
def rxVerdict (b : Byte) (s : State) : RxStatus :=
  let p := s.rxPos.toNat
  if p < 5 then .errShort
  else if !s.rxHdrOk then .errHeader
  else if s.rxAcc ≠ b then .errChecksum
  else if s.rxLen.toNat ≠ p - 5 then .errLength
  else .ok

/-- `RX_KIND` (R78): a function of the registers, not a stored element (R8). -/
def rxKind (s : State) : Kind :=
  if s.rxStatus = .ok then classify s.rxId s.rxLen.toNat else .none

end Sys2Proof.Machine
end

