-- ==== Sys2Proof/Machine/Ops.lean ====
section
/-! DEFINITION. The named operations over buffers and registers: the byte buffers, the read ports
(spec/10_state.md rule R15), the RX sequencer's register transfers (spec/41_frame_parse.md rules R53, R54), the
TX unit's (spec/42_frame_build.md rules R63, R64), what an error changes (spec/60_exceptions.md rule R101) and
reset (spec/70_reset_and_hazards.md rule R107). There is no return operation (R102). -/

namespace Sys2Proof.Machine

/-! ### Byte buffers -/

/-- The byte at an index; no value where nothing is listed. -/
def Memory.read : Memory → Nat → Option Byte
  | [], _ => none
  | (a, b) :: m, x => if a = x then some b else Memory.read m x

/-- Write one byte, keeping the indices strictly rising. -/
def Memory.write : Memory → Nat → Byte → Memory
  | [], x, v => [(x, v)]
  | (a, b) :: m, x, v =>
    if x < a then (x, v) :: (a, b) :: m
    else if x = a then (x, v) :: m
    else (a, b) :: Memory.write m x v

/-- Write consecutive bytes from index `a` up (R19: lower index first). -/
def Memory.writeFrom : Memory → Nat → List Byte → Memory
  | m, _, [] => m
  | m, a, b :: bs => Memory.writeFrom (Memory.write m a b) (a + 1) bs

/-- Read `n` consecutive bytes from index `a`; no value if one of them has none. -/
def Memory.readRange (m : Memory) : Nat → Nat → Option (List Byte)
  | _, 0 => some []
  | a, n + 1 =>
    match Memory.read m a, Memory.readRange m (a + 1) n with
    | some b, some bs => some (b :: bs)
    | _, _ => none

/-- The canonical form: strictly rising indices. No listed entry equals what an unlisted index reads as, since
that is no value. -/
abbrev Memory.wf (m : Memory) : Prop := m.Pairwise fun x y => x.1 < y.1

/-! ### Read ports (R15): a register that holds no value gives a fault, never a number -/

/-- Read `RX_SRC`. -/
def readRxSrc (s : State) : Except Fault Byte :=
  if s.rxStatus = .ok then .ok s.rxSrc else .error (.noValue .rxSrc)

/-- Read `RX_ID`. -/
def readRxId (s : State) : Except Fault Byte :=
  if s.rxStatus = .ok then .ok s.rxId else .error (.noValue .rxId)

/-- Read `RX_LEN`. -/
def readRxLen (s : State) : Except Fault Byte :=
  if s.rxStatus = .ok then .ok s.rxLen else .error (.noValue .rxLen)

/-- Read `RX_PAY[k]`: `k >= RX_LEN` never has a value. -/
def readRxPay (s : State) (k : Nat) : Except Fault Byte :=
  if s.rxStatus = .ok ∧ k < s.rxLen.toNat then
    match s.rxPay.read k with
    | some b => .ok b
    | none => .error (.noValue (.rxPay k))
  else .error (.noValue (.rxPay k))

/-- Read the whole payload `RXPAY[0 .. RX_LEN-1]`. -/
def readPayload (s : State) : Except Fault (List Byte) :=
  if s.rxStatus = .ok then
    match s.rxPay.readRange 0 s.rxLen.toNat with
    | some pay => .ok pay
    | none => .error (.noValue (.rxPay 0))
  else .error (.noValue (.rxPay 0))

/-- `TX_N` and `TX_PKT` have a value only while `TX_STATUS` is `BUSY` or `DONE`. -/
def txHasPacket (s : State) : Bool := s.txStatus == .busy || s.txStatus == .done

/-- Read `TX_N`. -/
def readTxN (s : State) : Except Fault Pos :=
  if txHasPacket s then .ok s.txN else .error (.noValue .txN)

/-- Read `TX_PKT[k]`. -/
def readTxPkt (s : State) (k : Nat) : Except Fault Byte :=
  if txHasPacket s ∧ k < s.txN.toNat then
    match s.txPkt.read k with
    | some b => .ok b
    | none => .error (.noValue (.txPkt k))
  else .error (.noValue (.txPkt k))

/-! ### RX unit -/

/-- `min(p + 1, 511)` (R10, R53): saturates, never wraps. -/
def posSucc (p : Pos) : Pos := if p.toNat < Config.posMax then p + 1 else p

/-- Where a byte at position `p >= 2` is stored (R53). A payload byte beyond the 255th has no place; it is summed
and not stored. -/
def rxStore (p : Nat) (b : Byte) (s : State) : State :=
  if p = 2 then { s with rxSrc := b }
  else if p = 3 then { s with rxId := b }
  else if p = 4 then { s with rxLen := b }
  else if 5 ≤ p ∧ p ≤ 259 then { s with rxPay := s.rxPay.write (p - 5) b }
  else s

/-- `RxByte(b, false)` (R53). -/
def rxMore (b : Byte) (s : State) : State :=
  let p := s.rxPos.toNat
  let s1 : State :=
    if p = 0 then { s with rxStatus := .busy, rxAcc := 0, rxHdrOk := b == Config.hdr0 }
    else if p = 1 then { s with rxHdrOk := s.rxHdrOk && b == Config.hdr1 }
    else rxStore p b { s with rxAcc := s.rxAcc + b }
  { s1 with rxPos := posSucc s.rxPos }

/-- The end of a packet (R54), and all that a receive error changes (R101): the status is written and the position
returns to 0; nothing is saved, masked or transferred. -/
def rxFinish (v : RxStatus) (s : State) : State := { s with rxStatus := v, rxPos := 0 }

/-- The frame the result registers hold at the end of a packet; none if a payload byte was never stored, which no
reachable state shows. -/
def heldFrame (s : State) : Option Frame :=
  (s.rxPay.readRange 0 s.rxLen.toNat).map fun pay =>
    { src := s.rxSrc, id := s.rxId, len := s.rxLen, pay := pay }

/-- The reception of a whole frame completes: `RX_SRC`, `RX_ID`, `RX_LEN` and `RX_PAY[0..L-1]` hold it,
`RX_STATUS = OK`, `rx_pos = 0` (R51, R53, R54). Places of `RX_PAY` past the payload keep what they held; there
are 255 places. -/
def rxAccept (src id : Byte) (pay : List Byte) (s : State) : State :=
  rxFinish .ok
    { s with rxSrc := src, rxId := id, rxLen := BitVec.ofNat 8 pay.length,
             rxPay := s.rxPay.writeFrom 0 (pay.take Config.maxPayload) }

/-! ### TX unit -/

/-- All that a refused build changes (R63, R101): `TX_STATUS <- ERR_INVALID_ARGUMENT`; `tx_pos` is unchanged. -/
def txRefuse (s : State) : State := { s with txStatus := .errInvalidArgument }

/-- `TxBuild(src, id, pay)` (R63): the whole packet, trailer included, exists at once, or the build is refused. -/
def txBuildFrame (src id : Byte) (pay : List Byte) (s : State) : State :=
  match frameBuild src id pay with
  | .error _ => txRefuse s
  | .ok bs =>
    { s with txPkt := s.txPkt.writeFrom 0 bs, txN := BitVec.ofNat 9 bs.length, txPos := 0, txStatus := .busy }

/-- `TxEmit` (R64): hands out `TX_PKT[tx_pos]`, marked `last` on the final byte; not enabled unless `BUSY`. -/
def txEmit (s : State) : Host.Outcome State Fault Refusal :=
  if s.txStatus = .busy then
    match readTxPkt s s.txPos.toNat with
    | .error f => .fault f
    | .ok b =>
      let last : Bool := decide (s.txPos.toNat = s.txN.toNat - 1)
      .next { s with out := s.out ++ [{ byte := b, last := last }], txPos := s.txPos + 1,
                     txStatus := if last then .done else .busy }
  else .fault .txEmitNotEnabled

/-! ### Reset -/

/-- `Reset` (R107, R108): every register of both units at its reset value, in any state; the environment's queue,
its held requests and the bytes already handed out are not the block's and stay. -/
def resetBlock (s : State) : State :=
  { State.reset with events := s.events, held := s.held, out := s.out }

end Sys2Proof.Machine
end

