-- ==== Sys2Proof/Machine/HelloScan.lean ====
section
/-! DEFINITION. The hello and scan messages and the generic frame (spec/47_catalog_hello_scan.md rules R87 to
R92), laid out as Machine/Steering.lean is. `GENERIC` has no typed build (R70). -/

namespace Sys2Proof

/-- Parse line of R87. -/
def unpackHelloHost (pay : List Byte) : Option Record := some (.helloHost (getArray pay 0 3))

/-- Build line of R87. -/
def payloadHelloHost (raw : List Int) : Except BuildError (List Byte) :=
  if fitsArray 3 raw then .ok (putArray raw) else .error .invalidArgument

/-- Parse line of R88. -/
def unpackScanReq (pay : List Byte) : Option Record := some (.scanReq (getArray pay 0 2))

/-- Build line of R88. -/
def payloadScanReq (raw : List Int) : Except BuildError (List Byte) :=
  if fitsArray 2 raw then .ok (putArray raw) else .error .invalidArgument

/-- Parse line of R89. -/
def unpackHelloSteer (pay : List Byte) : Option Record := (getU8 pay 0).map .helloSteer

/-- Build line of R89: the version and two reserved zero bytes. -/
def payloadHelloSteer (version : Int) : Except BuildError (List Byte) :=
  if fitsU8 version then .ok (putU8 version ++ putReserved 2) else .error .invalidArgument

/-- Parse line of R90. -/
def unpackHelloImpl (pay : List Byte) : Option Record := (getU8 pay 0).map .helloImpl

/-- Build line of R90. -/
def payloadHelloImpl (version : Int) : Except BuildError (List Byte) :=
  if fitsU8 version then .ok (putU8 version ++ putReserved 2) else .error .invalidArgument

/-- Parse line of R91. -/
def unpackHelloImu (pay : List Byte) : Option Record := (getU8 pay 0).map .helloImu

/-- Build line of R91. -/
def payloadHelloImu (version : Int) : Except BuildError (List Byte) :=
  if fitsU8 version then .ok (putU8 version ++ putReserved 2) else .error .invalidArgument

namespace Machine

/-- Reception of a `HELLO_HOST` frame (R87, R54). -/
def execHelloHost (src : Byte) (raw : List Byte) (s : State) : Host.Outcome State Fault Refusal :=
  .next (rxAccept src Entry.helloHost.id raw s)

/-- Reception of a `SCAN_REQ` frame (R88, R54). -/
def execScanReq (src : Byte) (raw : List Byte) (s : State) : Host.Outcome State Fault Refusal :=
  .next (rxAccept src Entry.scanReq.id raw s)

/-- Reception of a `HELLO_STEER` frame (R89, R54). -/
def execHelloSteer (src version : Byte) (reserved : List Byte) (s : State) :
    Host.Outcome State Fault Refusal :=
  .next (rxAccept src Entry.helloSteer.id (packHello version reserved) s)

/-- Reception of a `HELLO_IMPL` frame (R90, R54). -/
def execHelloImpl (src version : Byte) (reserved : List Byte) (s : State) :
    Host.Outcome State Fault Refusal :=
  .next (rxAccept src Entry.helloImpl.id (packHello version reserved) s)

/-- Reception of a `HELLO_IMU` frame (R91, R54). -/
def execHelloImu (src version : Byte) (reserved : List Byte) (s : State) :
    Host.Outcome State Fault Refusal :=
  .next (rxAccept src Entry.helloImu.id (packHello version reserved) s)

/-- Reception of a `GENERIC` frame (R92, R54): the id is an operand and the payload is raw. -/
def execGeneric (src id : Byte) (pay : List Byte) (s : State) : Host.Outcome State Fault Refusal :=
  .next (rxAccept src id pay s)

end Machine

end Sys2Proof
end

