-- ==== Sys2Proof/Machine/Implement.lean ====
section
/-! DEFINITION. The implement controller messages `IMPL_DATA`, `IMPL_CFG`, `IMPL_FB`
(spec/45_catalog_implement.md rules R82 to R84), laid out as Machine/Steering.lean is. -/

namespace Sys2Proof

/-- Parse line of R82: `N = L - 17` section bytes. -/
def unpackImplData (pay : List Byte) : Option Record := do
  return .implData (getArray pay 0 8) (getArray pay 8 8) (← getU8 pay 16) (getArray pay 17 (pay.length - 17))

/-- Build line of R82: both relay banks exactly eight elements, at most 238 sections. -/
def payloadImplData (relayLo relayHi : List Int) (tramline : Int) (sections : List Int) :
    Except BuildError (List Byte) :=
  if fitsArray 8 relayLo && fitsArray 8 relayHi && fitsU8 tramline && fitsSections sections then
    .ok (putArray relayLo ++ putArray relayHi ++ putU8 tramline ++ putArray sections)
  else .error .invalidArgument

/-- Parse line of R83. -/
def unpackImplCfg (pay : List Byte) : Option Record := some (.implCfg (getArray pay 0 6))

/-- Build line of R83. -/
def payloadImplCfg (raw : List Int) : Except BuildError (List Byte) :=
  if fitsArray 6 raw then .ok (putArray raw) else .error .invalidArgument

/-- Parse line of R84. -/
def unpackImplFb (pay : List Byte) : Option Record := some (.implFb (getArray pay 0 2))

/-- Build line of R84. -/
def payloadImplFb (raw : List Int) : Except BuildError (List Byte) :=
  if fitsArray 2 raw then .ok (putArray raw) else .error .invalidArgument

namespace Machine

/-- Reception of an `IMPL_DATA` frame (R82, R54). -/
def execImplData (src : Byte) (relayLo relayHi : List Byte) (tramline : Byte) (sections : List Byte)
    (s : State) : Host.Outcome State Fault Refusal :=
  .next (rxAccept src Entry.implData.id (packImplData relayLo relayHi tramline sections) s)

/-- Reception of an `IMPL_CFG` frame (R83, R54). -/
def execImplCfg (src : Byte) (raw : List Byte) (s : State) : Host.Outcome State Fault Refusal :=
  .next (rxAccept src Entry.implCfg.id raw s)

/-- Reception of an `IMPL_FB` frame (R84, R54). -/
def execImplFb (src : Byte) (raw : List Byte) (s : State) : Host.Outcome State Fault Refusal :=
  .next (rxAccept src Entry.implFb.id raw s)

end Machine

end Sys2Proof
end

