-- ==== Sys2Proof/Machine/Imu.lean ====
section
/-! DEFINITION. The inertial unit messages `IMU_CFG` and `IMU_DATA` (spec/46_catalog_imu.md rules R85, R86), laid
out as Machine/Steering.lean is. -/

namespace Sys2Proof

/-- Parse line of R85. -/
def unpackImuCfg (pay : List Byte) : Option Record := some (.imuCfg (getArray pay 0 4))

/-- Build line of R85. -/
def payloadImuCfg (raw : List Int) : Except BuildError (List Byte) :=
  if fitsArray 4 raw then .ok (putArray raw) else .error .invalidArgument

/-- Parse line of R86: `heading` is unsigned. -/
def unpackImuData (pay : List Byte) : Option Record := do
  return .imuData (← getI16 pay 0) (← getI16 pay 2) (← getU16 pay 4) (← getI16 pay 6) (← getU8 pay 8)

/-- Build line of R86: seven reserved zero bytes; a heading of 36000 or more is neither refused nor reduced. -/
def payloadImuData (roll pitch heading yawRate calibrated : Int) : Except BuildError (List Byte) :=
  if fitsI16 roll && fitsI16 pitch && fitsU16 heading && fitsI16 yawRate && fitsU8 calibrated then
    .ok (putI16 roll ++ putI16 pitch ++ putU16 heading ++ putI16 yawRate ++ putU8 calibrated ++ putReserved 7)
  else .error .invalidArgument

namespace Machine

/-- Reception of an `IMU_CFG` frame (R85, R54). -/
def execImuCfg (src : Byte) (raw : List Byte) (s : State) : Host.Outcome State Fault Refusal :=
  .next (rxAccept src Entry.imuCfg.id raw s)

/-- Reception of an `IMU_DATA` frame (R86, R54). -/
def execImuData (src : Byte) (roll pitch heading yawRate : Half) (calibrated : Byte) (reserved : List Byte)
    (s : State) : Host.Outcome State Fault Refusal :=
  .next (rxAccept src Entry.imuData.id (packImuData roll pitch heading yawRate calibrated reserved) s)

end Machine

end Sys2Proof
end

