-- ==== Sys2Proof/Machine/Steering.lean ====
section
/-! DEFINITION. The steering messages `STEER_CMD`, `STEER_SET`, `STEER_FB` (spec/44_catalog_steering.md rules R79
to R81). For each kind: `unpack…` is its "parse" line, `payload…` its "build" line up to the packed payload, and
`exec…` its meaning as an instruction, the reception of that frame (R51, R54). The frame of a build is made from the
payload by Machine/Typed.lean (R70). -/

namespace Sys2Proof

/-- Parse line of R79. -/
def unpackSteerCmd (pay : List Byte) : Option Record := do
  return .steerCmd (← getU16 pay 0) (← getU8 pay 2) (← getI16 pay 3) (← getI16 pay 5)

/-- Build line of R79: the range checks, then the packed payload with two reserved zero bytes. -/
def payloadSteerCmd (speed status steerAngle crossTrackError : Int) : Except BuildError (List Byte) :=
  if fitsU16 speed && fitsU8 status && fitsI16 steerAngle && fitsI16 crossTrackError then
    .ok (putU16 speed ++ putU8 status ++ putI16 steerAngle ++ putI16 crossTrackError ++ putReserved 2)
  else .error .invalidArgument

/-- Parse line of R80. -/
def unpackSteerSet (pay : List Byte) : Option Record := some (.steerSet (getArray pay 0 12))

/-- Build line of R80. -/
def payloadSteerSet (raw : List Int) : Except BuildError (List Byte) :=
  if fitsArray 12 raw then .ok (putArray raw) else .error .invalidArgument

/-- Parse line of R81. -/
def unpackSteerFb (pay : List Byte) : Option Record := do
  return .steerFb (← getI16 pay 0) (← getU8 pay 2) (← getU8 pay 3)

/-- Build line of R81: four reserved zero bytes. -/
def payloadSteerFb (actualAngle switchStates statusFlags : Int) : Except BuildError (List Byte) :=
  if fitsI16 actualAngle && fitsU8 switchStates && fitsU8 statusFlags then
    .ok (putI16 actualAngle ++ putU8 switchStates ++ putU8 statusFlags ++ putReserved 4)
  else .error .invalidArgument

namespace Machine

/-- Reception of a `STEER_CMD` frame (R79, R54). -/
def execSteerCmd (src : Byte) (speed : Half) (status : Byte) (steerAngle crossTrackError : Half)
    (reserved : List Byte) (s : State) : Host.Outcome State Fault Refusal :=
  .next (rxAccept src Entry.steerCmd.id (packSteerCmd speed status steerAngle crossTrackError reserved) s)

/-- Reception of a `STEER_SET` frame (R80, R54). -/
def execSteerSet (src : Byte) (raw : List Byte) (s : State) : Host.Outcome State Fault Refusal :=
  .next (rxAccept src Entry.steerSet.id raw s)

/-- Reception of a `STEER_FB` frame (R81, R54). -/
def execSteerFb (src : Byte) (actualAngle : Half) (switchStates statusFlags : Byte) (reserved : List Byte)
    (s : State) : Host.Outcome State Fault Refusal :=
  .next (rxAccept src Entry.steerFb.id (packSteerFb actualAngle switchStates statusFlags reserved) s)

end Machine

end Sys2Proof
end

