-- ==== Sys2Proof/Machine/Dispatch.lean ====
section
/-! DEFINITION. The meaning of each instruction: one arm per row of spec/opcode_table.json. -/

namespace Sys2Proof.Machine

def exec (i : Instr) (s : State) : Host.Outcome State Fault Refusal :=
  match i with
  | .steerCmd src speed status angle xte reserved => Sys2Proof.Machine.execSteerCmd src speed status angle xte reserved s
  | .steerSet src raw => Sys2Proof.Machine.execSteerSet src raw s
  | .steerFb src angle switches flags reserved => Sys2Proof.Machine.execSteerFb src angle switches flags reserved s
  | .implData src lo hi tramline sections => Sys2Proof.Machine.execImplData src lo hi tramline sections s
  | .implCfg src raw => Sys2Proof.Machine.execImplCfg src raw s
  | .implFb src raw => Sys2Proof.Machine.execImplFb src raw s
  | .imuCfg src raw => Sys2Proof.Machine.execImuCfg src raw s
  | .imuData src roll pitch heading yaw calibrated reserved => Sys2Proof.Machine.execImuData src roll pitch heading yaw calibrated reserved s
  | .helloHost src raw => Sys2Proof.Machine.execHelloHost src raw s
  | .scanReq src raw => Sys2Proof.Machine.execScanReq src raw s
  | .helloSteer src version reserved => Sys2Proof.Machine.execHelloSteer src version reserved s
  | .helloImpl src version reserved => Sys2Proof.Machine.execHelloImpl src version reserved s
  | .helloImu src version reserved => Sys2Proof.Machine.execHelloImu src version reserved s
  | .generic src id pay => Sys2Proof.Machine.execGeneric src id pay s

end Sys2Proof.Machine
end

