-- ==== Sys2Proof/Machine/Typed.lean ====
section
/-! DEFINITION. The typed layer (spec/43_typed_layer.md): `MSG.PARSE`, `MSG.PARSE.<kind>`, `MSG.BUILD.<kind>`,
`HELLO.PARSE` (spec/47_catalog_hello_scan.md rule R93), and the typed views of the binding (R78). It adds no event
and no stored state. -/

namespace Sys2Proof

/-- `unpack_K`: the parse line of entry `e`. -/
def unpackEntry (e : Entry) (pay : List Byte) : Option Record :=
  match e with
  | .steerCmd => unpackSteerCmd pay
  | .steerSet => unpackSteerSet pay
  | .steerFb => unpackSteerFb pay
  | .implData => unpackImplData pay
  | .implCfg => unpackImplCfg pay
  | .implFb => unpackImplFb pay
  | .imuCfg => unpackImuCfg pay
  | .imuData => unpackImuData pay
  | .helloHost => unpackHelloHost pay
  | .scanReq => unpackScanReq pay
  | .helloSteer => unpackHelloSteer pay
  | .helloImpl => unpackHelloImpl pay
  | .helloImu => unpackHelloImu pay

/-- The typed message of a frame whose id and length classify as `k` (R68); `none` is "no message". -/
def unpackKind (k : Kind) (id : Byte) (pay : List Byte) : Option TypedMessage :=
  match k with
  | .none => none
  | .generic => some (.generic id pay)
  | .entry e => (unpackEntry e pay).map .record

/-- `MSG.PARSE` (R68). -/
def msgParse (bs : List Byte) : Option TypedMessage :=
  match frameParse bs with
  | .error _ => none
  | .ok f => unpackKind (classify f.id f.len.toNat) f.id f.pay

/-- The entry whose record this is. -/
def Record.entry : Record → Entry
  | .steerCmd .. => .steerCmd
  | .steerSet .. => .steerSet
  | .steerFb .. => .steerFb
  | .implData .. => .implData
  | .implCfg .. => .implCfg
  | .implFb .. => .implFb
  | .imuCfg .. => .imuCfg
  | .imuData .. => .imuData
  | .helloHost .. => .helloHost
  | .scanReq .. => .scanReq
  | .helloSteer .. => .helloSteer
  | .helloImpl .. => .helloImpl
  | .helloImu .. => .helloImu

/-- `MSG.PARSE.<kind>` (R69): the record, if the packet parses as a message of entry `e`. -/
def msgParseEntry (e : Entry) (bs : List Byte) : Option Record :=
  match msgParse bs with
  | some (.record r) => if r.entry = e then some r else none
  | some (.generic _ _) => none
  | none => none

/-- The checks and the packing of `MSG.BUILD.<kind>` (R70, R71): on a failed check nothing is built. -/
def payloadOf : Record → Except BuildError (List Byte)
  | .steerCmd speed status steerAngle crossTrackError =>
      payloadSteerCmd speed status steerAngle crossTrackError
  | .steerSet raw => payloadSteerSet raw
  | .steerFb actualAngle switchStates statusFlags => payloadSteerFb actualAngle switchStates statusFlags
  | .implData relayLo relayHi tramline sections => payloadImplData relayLo relayHi tramline sections
  | .implCfg raw => payloadImplCfg raw
  | .implFb raw => payloadImplFb raw
  | .imuCfg raw => payloadImuCfg raw
  | .imuData roll pitch heading yawRate calibrated => payloadImuData roll pitch heading yawRate calibrated
  | .helloHost raw => payloadHelloHost raw
  | .scanReq raw => payloadScanReq raw
  | .helloSteer version => payloadHelloSteer version
  | .helloImpl version => payloadHelloImpl version
  | .helloImu version => payloadHelloImu version

/-- `MSG.BUILD.<kind>` (R70): the packet, or `InvalidArgument`. -/
def msgBuild (r : Record) : Except BuildError (List Byte) :=
  match payloadOf r with
  | .error e => .error e
  | .ok pay => frameBuild r.entry.source r.entry.id pay

/-- `HELLO.PARSE` (R93): the module and the version of a module hello; no check of source, version or reserved
bytes. -/
def helloParse (bs : List Byte) : Option (ModuleKind × Int) :=
  match msgParse bs with
  | some (.record (.helloSteer version)) => some (.steeringActuator, version)
  | some (.record (.helloImpl version)) => some (.implementController, version)
  | some (.record (.helloImu version)) => some (.inertialUnit, version)
  | _ => none

/-- The typed message an instruction is, read off its operands: the integers of its fields (R72), without source
and reserved bytes (R67). -/
def Instr.message : Instr → TypedMessage
  | .steerCmd _ speed status steerAngle crossTrackError _ =>
      .record (.steerCmd (zext16 speed) (zext8 status) (sext16 steerAngle) (sext16 crossTrackError))
  | .steerSet _ raw => .record (.steerSet (raw.map zext8))
  | .steerFb _ actualAngle switchStates statusFlags _ =>
      .record (.steerFb (sext16 actualAngle) (zext8 switchStates) (zext8 statusFlags))
  | .implData _ relayLo relayHi tramline sections =>
      .record (.implData (relayLo.map zext8) (relayHi.map zext8) (zext8 tramline) (sections.map zext8))
  | .implCfg _ raw => .record (.implCfg (raw.map zext8))
  | .implFb _ raw => .record (.implFb (raw.map zext8))
  | .imuCfg _ raw => .record (.imuCfg (raw.map zext8))
  | .imuData _ roll pitch heading yawRate calibrated _ =>
      .record (.imuData (sext16 roll) (sext16 pitch) (zext16 heading) (sext16 yawRate) (zext8 calibrated))
  | .helloHost _ raw => .record (.helloHost (raw.map zext8))
  | .scanReq _ raw => .record (.scanReq (raw.map zext8))
  | .helloSteer _ version _ => .record (.helloSteer (zext8 version))
  | .helloImpl _ version _ => .record (.helloImpl (zext8 version))
  | .helloImu _ version _ => .record (.helloImu (zext8 version))
  | .generic _ id pay => .generic id pay

namespace Machine

/-- The typed view of entry `e` (R78): a value only while `RX_KIND` is that entry (W3). -/
def viewEntry (e : Entry) (s : State) : Except Fault Record :=
  if rxKind s = .entry e then
    match readPayload s with
    | .error f => .error f
    | .ok pay =>
      match unpackEntry e pay with
      | some r => .ok r
      | none => .error (.noValue (.rxPay 0))
  else .error (.otherKind e)

/-- The typed message the RX registers show (R78): none while `RX_KIND = NONE`. -/
def viewMessage (s : State) : Option TypedMessage :=
  match rxKind s with
  | .none => none
  | .generic =>
    match readPayload s with
    | .ok pay => some (.generic s.rxId pay)
    | .error _ => none
  | .entry e =>
    match viewEntry e s with
    | .ok r => some (.record r)
    | .error _ => none

/-- `HELLO.PARSE` in the binding (R93): the module from `RX_KIND`, the version from `RX_PAY[0]`. -/
def viewHello (s : State) : Option (ModuleKind × Int) :=
  match rxKind s with
  | .none => none
  | .generic => none
  | .entry e =>
    match e.helloModule, readRxPay s 0 with
    | some m, .ok b => some (m, zext8 b)
    | _, _ => none

end Machine

end Sys2Proof
end

