-- ==== Sys2Proof/Machine/Sequencer.lean ====
section
/-! DEFINITION. The events of spec/10_state.md rule R7, one step each: the end of a packet
(spec/41_frame_parse.md rule R54), a build request and its hold (spec/42_frame_build.md rules R63, R66), and the
order in which the environment's moves are taken (log entry 1). -/

namespace Sys2Proof.Machine

/-- `RxByte(b, true)` (R54). When every test passes and the frame the registers hold is an instruction, the step
runs it; a well-formed frame that classifies as `NONE` is accepted all the same (R34); otherwise the status names the
first failing test (R101). -/
def rxLast (b : Byte) (s : State) : Host.Outcome State Fault Refusal :=
  if rxVerdict b s = .ok then
    match (heldFrame s).bind decodeFrame with
    | some i => exec i s
    | none => .next (rxFinish .ok s)
  else .next (rxFinish (rxVerdict b s) s)

/-- Every scalar operand a typed request presents (R72). -/
def operandsOf : Record → List Int
  | .steerCmd speed status steerAngle crossTrackError => [speed, status, steerAngle, crossTrackError]
  | .steerSet raw => raw
  | .steerFb actualAngle switchStates statusFlags => [actualAngle, switchStates, statusFlags]
  | .implData relayLo relayHi tramline sections => relayLo ++ relayHi ++ tramline :: sections
  | .implCfg raw => raw
  | .implFb raw => raw
  | .imuCfg raw => raw
  | .imuData roll pitch heading yawRate calibrated => [roll, pitch, heading, yawRate, calibrated]
  | .helloHost raw => raw
  | .scanReq raw => raw
  | .helloSteer version => [version]
  | .helloImpl version => [version]
  | .helloImu version => [version]

/-- Can the port present the request: a 16-bit payload count (R63), 32-bit scalar operands (R72)? -/
def presentable : TxRequest → Bool
  | .frame _ _ pay => decide (pay.length ≤ Config.portCountMax)
  | .typed r => (operandsOf r).all fitsPort

/-- A build request steps (R63; R70 for a typed one: the `TxBuild` of its packed payload, or a refusal that builds
nothing). -/
def txStart (r : TxRequest) (s : State) : State :=
  match r with
  | .frame src id pay => txBuildFrame src id pay s
  | .typed rec =>
    match payloadOf rec with
    | .ok pay => txBuildFrame rec.entry.source rec.entry.id pay s
    | .error _ => txRefuse s

/-- One event. A build request that arrives while the TX unit is `BUSY` has no step: the environment holds it and
no register changes (R66). -/
def runEvent (e : Event) (s : State) : Host.Outcome State Fault Refusal :=
  match e with
  | .rxByte b false => .next (rxMore b s)
  | .rxByte b true => rxLast b s
  | .txBuild r =>
    if presentable r then
      if s.txStatus = .busy then .next { s with held := s.held ++ [r] } else .next (txStart r s)
    else .refused .notPresentable
  | .txEmit => txEmit s
  | .reset => .next (resetBlock s)

/-- The next event of the queue. `TxEmit` has no input (R7): it is the TX unit's own move, so with an empty queue a
`BUSY` unit hands out its next byte by itself, and a hold always ends (R66). Only a block with nothing to do waits, and
nothing changes. An entry `.txEmit` of the queue says that the TX unit moves there, before what comes after it. -/
def runQueue (s : State) : Host.Outcome State Fault Refusal :=
  match s.events with
  | [] => if s.txStatus = .busy then txEmit s else .next s
  | e :: es => runEvent e { s with events := es }

/-- The next move: a held build request as soon as the TX unit is not `BUSY` (R66), else the next event. -/
def nextMove (s : State) : Host.Outcome State Fault Refusal :=
  match s.held with
  | [] => runQueue s
  | r :: rest => if s.txStatus = .busy then runQueue s else .next (txStart r { s with held := rest })

/-- The state in which all of a packet but its final byte has been received and that byte is the next move; a held
build request, which would move first, is presented after it instead. -/
def stagePacket (bs : List Byte) (s : State) : State :=
  match bs.getLast? with
  | none => s
  | some b =>
    let s1 := bs.dropLast.foldl (fun t c => rxMore c t) { s with rxPos := 0 }
    { s1 with events := .rxByte b true :: (s.held.map .txBuild ++ s.events), held := [] }

end Sys2Proof.Machine
end

