-- ==== Sys2Proof/Machine/Step.lean ====
section
/-! DEFINITION. One step of the machine, and the host's way of placing an instruction. -/

namespace Sys2Proof.Machine

/-- One step: a held request, the next event, or the TX unit's own `TxEmit` (R7, R66). -/
def step (s : State) : Host.Outcome State Fault Refusal := nextMove s

/-- The state whose very next step completes the reception of the frame that a table word stands for
(log entries 7 and 8). -/
def State.withFetchWord (s : State) (nbits w : Nat) : State := stagePacket (tablePacket nbits w) s

end Sys2Proof.Machine
end

