-- ==== Sys2Proof/Machine/Scale.lean ====
section
/-! DEFINITION. The fixed-point reading of the payload integers (spec/30_encoding.md rule R30;
spec/43_typed_layer.md rule R74). It is an interpretation of the integers for software around the block: no event,
no register and no other definition of the model uses it (spec/00_scope.md rule R4 (d)). Two files of the spec
speak about a field without a documented scale, and log entry 9 says which the model follows. -/

namespace Sys2Proof

/-- The named fields of the catalog (R67); `relayLo`, `relayHi` and `sections` stand for one element of the array.
The `raw` bytes of the entries without a layout have no scale (R76) and are no field here. -/
inductive Field where
  | speed | status | steerAngle | crossTrackError | actualAngle | switchStates | statusFlags
  | relayLo | relayHi | tramline | sections
  | roll | pitch | heading | yawRate | calibrated | version
  deriving DecidableEq, Repr

/-- The scale recorded in the kind's rule: 10 for speed, 100 for angles, 1 for counts and flags and for
`crossTrackError`; `yawRate` has none (R79, R81, R86; N11 of spec/91_not_in_source.md; log entry 9). -/
def Field.scale : Field → Option Nat
  | .speed => some 10
  | .steerAngle | .actualAngle | .roll | .pitch | .heading => some 100
  | .status | .crossTrackError | .switchStates | .statusFlags | .relayLo | .relayHi | .tramline | .sections
  | .calibrated | .version => some 1
  | .yawRate => none

/-- The scale a conversion may use. U7 of spec/93_implementation_defined.md: a model must refuse to convert
`yawRate` and `crossTrackError`, the 1 recorded for the latter being "an interpretation only" (D25); R74 and the table
beside V1 in spec/95_test_vectors.md read `crossTrackError` at that 1 all the same. DESIGN CHOICE (log entry 9): the
model follows U7 and refuses both. -/
def Field.conversionScale : Field → Option Nat
  | .crossTrackError | .yawRate => none
  | f => f.scale

/-- The engineering value `raw / scale`, exactly (R74); `none` is the refusal of U7 (DESIGN CHOICE for
`crossTrackError`, log entry 9). -/
def Field.engineering (f : Field) (raw : Int) : Option Rat := f.conversionScale.map fun k => (raw : Rat) / (k : Rat)

/-- `raw = ROUND(value * scale)` (R74), with the OPEN parameter `ROUND` as an argument (D12 of
spec/92_eei_decisions.md); `none` is the refusal of U7 (DESIGN CHOICE for `crossTrackError`, log entry 9). -/
def Field.ofEngineering (round : Rat → Int) (f : Field) (value : Rat) : Option Int :=
  f.conversionScale.map fun k => round (value * (k : Rat))

end Sys2Proof
end

