-- ==== Sys2Proof/Safety.lean ====
section
/-! DEFINITION. What counts as a safe state, and the terms in which claims are written: runs, enabledness
(spec/10_state.md rule R7), the events of one packet (spec/70_reset_and_hazards.md rule R111), what the TX port
hands out (spec/42_frame_build.md rule R64), frames, and the invariant. -/

namespace Sys2Proof.Machine

/-- `n` steps, stopping at the first fault or refusal. -/
def runSteps : Nat → State → Host.Outcome State Fault Refusal
  | 0, s => .next s
  | n + 1, s =>
    match step s with
    | .next t => runSteps n t
    | .fault f => .fault f
    | .refused r => .refused r

/-- When an event is enabled (R7): `RxByte` and `Reset` always, `TxEmit` exactly while `BUSY`, `TxBuild` exactly
while not. -/
def enabled (e : Event) (s : State) : Bool :=
  match e with
  | .rxByte _ _ => true
  | .txBuild _ => s.txStatus != .busy
  | .txEmit => s.txStatus == .busy
  | .reset => true

/-- The events that deliver one packet: index order, `last` on the final byte and on no other (R19, R111). -/
def packetEvents (bs : List Byte) : List Event :=
  bs.dropLast.map (fun b => .rxByte b false) ++ bs.getLast?.toList.map (fun b => .rxByte b true)

/-- The outputs that hand out one packet: index order, `last` on the final byte and on no other (R64). -/
def emission (bs : List Byte) : List TxOut :=
  bs.dropLast.map (fun b => { byte := b, last := false })
    ++ bs.getLast?.toList.map (fun b => { byte := b, last := true })

/-- The next move of `s` is the head of its event queue: no build request is held, or the TX unit is `BUSY`. -/
abbrev QueueMoves (s : State) : Prop := s.held = [] ∨ s.txStatus = .busy

/-- No RX register differs (R7: the units share no state). -/
def SameRx (s t : State) : Prop :=
  t.rxStatus = s.rxStatus ∧ t.rxSrc = s.rxSrc ∧ t.rxId = s.rxId ∧ t.rxLen = s.rxLen ∧ t.rxPay = s.rxPay ∧
  t.rxPos = s.rxPos ∧ t.rxAcc = s.rxAcc ∧ t.rxHdrOk = s.rxHdrOk

/-- No TX register differs. -/
def SameTx (s t : State) : Prop :=
  t.txStatus = s.txStatus ∧ t.txN = s.txN ∧ t.txPkt = s.txPkt ∧ t.txPos = s.txPos

/-- The environment's side of the ports does not differ. -/
def SameEnv (s t : State) : Prop := t.events = s.events ∧ t.held = s.held ∧ t.out = s.out

/-- What the reception of a frame with `n` payload bytes leaves alone: the running sum, the header flag, every byte
of `RX_PAY` from `n` up, the TX unit and the environment's side. -/
def ReceptionKeeps (n : Nat) (s t : State) : Prop :=
  t.rxAcc = s.rxAcc ∧ t.rxHdrOk = s.rxHdrOk ∧ (∀ k, n ≤ k → t.rxPay.read k = s.rxPay.read k) ∧
  SameTx s t ∧ SameEnv s t

/-- The bytes of the checksum span received so far in the current packet, as the registers hold them, while the
payload places suffice (R53, R58). -/
def spanReceived (s : State) : Option (List Byte) :=
  (s.rxPay.readRange 0 (s.rxPos.toNat - 5)).map fun pay =>
    [s.rxSrc, s.rxId, s.rxLen].take (s.rxPos.toNat - 2) ++ pay

/-- The RX unit's invariant. -/
structure RxInv (s : State) : Prop where
  /-- `RX_PAY` keeps its canonical form. -/
  wf : s.rxPay.wf
  /-- `RX_PAY` has 255 places (R8). -/
  places : ∀ c ∈ s.rxPay, c.1 < 255
  /-- A packet is in progress exactly while `rx_pos` is not 0 (R10, R11). -/
  busy : s.rxStatus = .busy ↔ s.rxPos ≠ 0
  /-- `rx_acc` is the sum of the span received so far (R14, R46). -/
  acc : 1 ≤ s.rxPos.toNat → s.rxPos.toNat ≤ 260 → ∃ span, spanReceived s = some span ∧ s.rxAcc = sum8 span
  /-- An accepted frame is held whole: every payload byte has a value, and the sum and the header matched (R15,
  R54). -/
  result : s.rxStatus = .ok → ∃ pay, s.rxPay.readRange 0 s.rxLen.toNat = some pay ∧
    s.rxAcc = crcOfFrame s.rxSrc s.rxId pay ∧ s.rxHdrOk = true

/-- The TX unit's invariant. -/
structure TxInv (s : State) : Prop where
  /-- `TX_PKT` keeps its canonical form. -/
  wf : s.txPkt.wf
  /-- `TX_PKT` has 261 places (R9). -/
  places : ∀ c ∈ s.txPkt, c.1 < 261
  /-- `tx_pos` never exceeds 261 (R10). -/
  pos : s.txPos.toNat ≤ 261
  /-- While `BUSY` or `DONE` the built packet is held whole and is well-formed (R15, R61). -/
  packet : txHasPacket s = true →
    ∃ bs, s.txPkt.readRange 0 s.txN.toNat = some bs ∧ WellFormedPacket bs
  /-- While `BUSY` a byte is left to hand out (R64). -/
  busy : s.txStatus = .busy → s.txPos.toNat < s.txN.toNat
  /-- In `DONE` all of them have been (R64). -/
  done : s.txStatus = .done → s.txPos = s.txN

/-- The invariant of the block. -/
structure BlockInv (s : State) : Prop where
  rx : RxInv s
  tx : TxInv s

end Sys2Proof.Machine

namespace Sys2Proof

/-- The packet indices of an entry's reserved bytes (R35, R79, R81, R86, R89 to R91). -/
def Entry.reservedIndices : Entry → List Nat
  | .steerCmd => [12, 13]
  | .steerFb => [9, 10, 11, 12]
  | .imuData => [14, 15, 16, 17, 18, 19, 20]
  | .helloSteer | .helloImpl | .helloImu => [6, 7]
  | .steerSet | .implData | .implCfg | .implFb | .imuCfg | .helloHost | .scanReq => []

end Sys2Proof
end

