-- ==== Sys2Proof/Certificates/Slice0/Obligations.lean ====
section
/-! DEFINITION. The statements for the provers. Each docstring names the rule of spec/ it formalises, or says that
it is derived and from what. No statement is about a program; where a run occurs it starts in every state that meets
the stated hypotheses, not in the reset state only. -/

namespace Sys2Proof.Claims

open Sys2Proof Sys2Proof.Machine

/-- The high byte of a 16-bit field for the integer `v`, by arithmetic: `v div 256` rounded down. -/
def hiByte (v : Int) : Byte := BitVec.ofInt 8 (v / 256)

/-- The low byte of a 16-bit field for the integer `v`. -/
def loByte (v : Int) : Byte := BitVec.ofInt 8 v

/-- The unsigned value of two bytes, by arithmetic. -/
def unsigned2 (hi lo : Byte) : Int := (hi.toNat : Int) * 256 + lo.toNat

/-- The two's complement value of two bytes. -/
def signed2 (hi lo : Byte) : Int := (hi ++ lo : BitVec 16).toInt

/-- Every element is a `u8`. -/
def allU8 (vs : List Int) : Prop := ∀ v ∈ vs, 0 ≤ v ∧ v ≤ 255

/-- An entry whose payload is `n` opaque bytes (R76): what its build and its parse do. -/
def OpaqueEntry (mk : List Int → Record) (src id : Byte) (n : Nat) : Prop :=
  (∀ raw, raw.length = n → allU8 raw →
    msgBuild (mk raw) = .ok (frameBytes src id (raw.map (BitVec.ofInt 8)))) ∧
  (∀ raw, ¬ (raw.length = n ∧ allU8 raw) → msgBuild (mk raw) = .error .invalidArgument) ∧
  (∀ (anySrc : Byte) (pay : List Byte), pay.length = n →
    msgParse (frameBytes anySrc id pay) = some (.record (mk (pay.map fun b => (b.toNat : Int))))) ∧
  (∀ (anySrc : Byte) (pay : List Byte), pay.length ≤ 255 → pay.length ≠ n →
    msgParse (frameBytes anySrc id pay) = none)

/-- A module hello (R89): what its build and its parse do. -/
def HelloEntry (mk : Int → Record) (src id : Byte) : Prop :=
  (∀ version, 0 ≤ version → version ≤ 255 →
    msgBuild (mk version) = .ok (frameBytes src id [BitVec.ofInt 8 version, 0, 0])) ∧
  (∀ version, ¬ (0 ≤ version ∧ version ≤ 255) → msgBuild (mk version) = .error .invalidArgument) ∧
  (∀ anySrc version r0 r1 : Byte,
    msgParse (frameBytes anySrc id [version, r0, r1]) = some (.record (mk version.toNat))) ∧
  (∀ (anySrc : Byte) (pay : List Byte), pay.length ≤ 255 → pay.length ≠ 3 →
    msgParse (frameBytes anySrc id pay) = none)

/-- What receiving a frame `(src, id, pay)` of kind `k` with typed record `m` leaves in the RX unit (R15, R51, R54,
R78), and what it leaves alone. -/
def Receives (src id : Byte) (pay : List Byte) (k : Kind) (m : TypedMessage) (s t : State) : Prop :=
  t.rxStatus = .ok ∧ t.rxPos = 0 ∧ readRxSrc t = .ok src ∧ readRxId t = .ok id ∧
  readRxLen t = .ok (BitVec.ofNat 8 pay.length) ∧ readPayload t = .ok pay ∧
  (∀ j (h : j < pay.length), readRxPay t j = .ok (pay[j]'h)) ∧
  rxKind t = k ∧ viewMessage t = some m ∧ ReceptionKeeps pay.length s t

/-- What the environment can read of the RX unit (R8, R78). -/
def SameReadings (s t : State) : Prop :=
  s.rxStatus = t.rxStatus ∧ rxKind s = rxKind t ∧ readRxSrc s = readRxSrc t ∧ readRxId s = readRxId t ∧
  readRxLen s = readRxLen t ∧ readPayload s = readPayload t ∧ (∀ k, readRxPay s k = readRxPay t k) ∧
  viewMessage s = viewMessage t ∧ viewHello s = viewHello t

/-- No RX result register has a value, and none is classified (R15, R101). -/
def NoRxResult (t : State) : Prop :=
  readRxSrc t = .error (.noValue .rxSrc) ∧ readRxId t = .error (.noValue .rxId) ∧
  readRxLen t = .error (.noValue .rxLen) ∧ (∀ k, readRxPay t k = .error (.noValue (.rxPay k))) ∧
  rxKind t = .none

/-- No TX result register has a value (R15, R101). -/
def NoTxResult (t : State) : Prop :=
  readTxN t = .error (.noValue .txN) ∧ ∀ k, readTxPkt t k = .error (.noValue (.txPkt k))

/-- The table of R107, and which events are enabled then. -/
def AfterReset (t : State) : Prop :=
  t.rxStatus = .idle ∧ t.rxPos = 0 ∧ t.rxAcc = 0 ∧ t.rxHdrOk = false ∧ t.txStatus = .idle ∧ t.txPos = 0 ∧
  NoRxResult t ∧ NoTxResult t ∧
  ∀ b l r, enabled (.rxByte b l) t = true ∧ enabled (.txBuild r) t = true ∧ enabled .txEmit t = false

/-- The `SRC_OF` column of R77. -/
def tableSource : Entry → Byte
  | .steerCmd | .steerSet | .implData | .implCfg | .imuCfg | .helloHost | .scanReq => 0x7F
  | .steerFb | .helloSteer => 0x7E
  | .implFb | .helloImpl => 0x7B
  | .imuData | .helloImu => 0x79

/-- The packet a build request asks for: `FRAME.BUILD`, or `MSG.BUILD.<kind>` for a typed one (R63, R70). -/
def requestPacket : TxRequest → Except BuildError (List Byte)
  | .frame src id pay => frameBuild src id pay
  | .typed r => msgBuild r

/-- What a build request does at a TX unit that is not `BUSY` (R63, R70, R66), register by register: the packet stored
whole and `BUSY`, or the refusal alone. The RX unit is left alone either way. -/
def RequestTakesEffect (r : TxRequest) (s t : State) : Prop :=
  SameRx s t ∧
  (∀ bs, requestPacket r = .ok bs →
    t.txStatus = .busy ∧ t.txPos = 0 ∧ readTxN t = .ok (BitVec.ofNat 9 bs.length) ∧
    (∀ k (h : k < bs.length), readTxPkt t k = .ok (bs[k]'h)) ∧
    (∀ k, bs.length ≤ k → t.txPkt.read k = s.txPkt.read k)) ∧
  (requestPacket r = .error .invalidArgument →
    t.txStatus = .errInvalidArgument ∧ t.txN = s.txN ∧ t.txPkt = s.txPkt ∧ t.txPos = s.txPos)

end Sys2Proof.Claims

open Sys2Proof Sys2Proof.Machine Sys2Proof.Claims

/-! ### The checksum -/

/-- R41, R44: `sum8` is the sum of the bytes modulo 256, with the laws (a) to (f). -/
def Obligations.SumIsByteSumModulo256WithItsLaws : Prop :=
  (∀ s : List Byte, (sum8 s).toNat = (s.map BitVec.toNat).sum % 256) ∧
  (∀ a b : List Byte, (sum8 (a ++ b)).toNat = ((sum8 a).toNat + (sum8 b).toNat) % 256) ∧
  (∀ a b : List Byte, a.Perm b → sum8 a = sum8 b) ∧
  (∀ s : List Byte, sum8 (s ++ [0]) = sum8 s) ∧
  (∀ (a b : List Byte) (u v : Byte), sum8 (a ++ v :: b) = sum8 (a ++ u :: b) + (v - u)) ∧
  (∀ (a b : List Byte) (u v : Byte), u ≠ v → sum8 (a ++ v :: b) ≠ sum8 (a ++ u :: b))

/-! ### Frame level -/

/-- R47, R48: the four tests of `FRAME.PARSE` in their order, and the record of an accepted packet. -/
def Obligations.FrameParseRunsTheFourTestsInOrder : Prop :=
  ∀ bs : List Byte,
    (bs.length < 6 → frameParse bs = .error .short) ∧
    (6 ≤ bs.length → ¬ (bs[0]? = some 0x80 ∧ bs[1]? = some 0x81) → frameParse bs = .error .header) ∧
    (6 ≤ bs.length → bs[0]? = some 0x80 ∧ bs[1]? = some 0x81 →
      bs[bs.length - 1]? ≠ some (sum8 ((bs.drop 2).take (bs.length - 3))) →
      frameParse bs = .error .checksum) ∧
    (6 ≤ bs.length → bs[0]? = some 0x80 ∧ bs[1]? = some 0x81 →
      bs[bs.length - 1]? = some (sum8 ((bs.drop 2).take (bs.length - 3))) →
      (bs[4]?).map BitVec.toNat ≠ some (bs.length - 6) → frameParse bs = .error .length) ∧
    (6 ≤ bs.length → bs[0]? = some 0x80 ∧ bs[1]? = some 0x81 →
      bs[bs.length - 1]? = some (sum8 ((bs.drop 2).take (bs.length - 3))) →
      (bs[4]?).map BitVec.toNat = some (bs.length - 6) →
      ∃ f, frameParse bs = .ok f ∧ bs[2]? = some f.src ∧ bs[3]? = some f.id ∧ bs[4]? = some f.len ∧
        f.pay = (bs.drop 5).take (bs.length - 6))

/-- R27 (with R47's "`Some` is returned iff `wellformed(bs)`"): the accepted packets are the well-formed ones, and
these have 6 to 261 bytes. -/
def Obligations.ParserAcceptsExactlyTheWellFormedPackets : Prop :=
  ∀ bs : List Byte,
    ((∃ f, frameParse bs = .ok f) ↔
      (6 ≤ bs.length ∧ bs[0]? = some 0x80 ∧ bs[1]? = some 0x81 ∧
        bs[bs.length - 1]? = some (sum8 ((bs.drop 2).take (bs.length - 3))) ∧
        (bs[4]?).map BitVec.toNat = some (bs.length - 6))) ∧
    (∀ f, frameParse bs = .ok f → bs.length ≤ 261)

/-- R45, first half (derived there from R44 and R47): any change of any one byte of a valid frame, so every
single-bit flip and every other value of the trailer, is rejected. -/
def Obligations.AnyChangedByteIsRejected : Prop :=
  ∀ (bs : List Byte) (f : Frame) (i : Nat) (h : i < bs.length) (b : Byte),
    frameParse bs = .ok f → b ≠ bs[i]'h → ∃ e, frameParse (bs.set i b) = .error e

/-- R45, second half (derived there): what the sum does not detect. Reordered payload bytes under the same trailer
are accepted. -/
def Obligations.ReorderedPayloadIsAccepted : Prop :=
  ∀ (src id : Byte) (pay pay' : List Byte), pay.length ≤ 255 → pay'.Perm pay →
    frameParse ([0x80, 0x81, src, id, BitVec.ofNat 8 pay.length] ++ pay' ++ [crcOfFrame src id pay])
      = .ok { src := src, id := id, len := BitVec.ofNat 8 pay.length, pay := pay' }

/-- R59, R60, R61: `FRAME.BUILD` refuses exactly a payload of more than 255 bytes, and otherwise writes each byte
of the layout where R17 puts it, a well-formed packet of `6 + m` bytes. -/
def Obligations.FrameBuildWritesTheFrameLayout : Prop :=
  ∀ (src id : Byte) (pay : List Byte),
    (255 < pay.length → frameBuild src id pay = .error .invalidArgument) ∧
    (pay.length ≤ 255 → ∃ bs, frameBuild src id pay = .ok bs ∧ bs.length = 6 + pay.length ∧
      bs[0]? = some 0x80 ∧ bs[1]? = some 0x81 ∧ bs[2]? = some src ∧ bs[3]? = some id ∧
      (bs[4]?).map BitVec.toNat = some pay.length ∧
      (∀ k, k < pay.length → bs[5 + k]? = pay[k]?) ∧
      bs[5 + pay.length]? = some (sum8 ([src, id, BitVec.ofNat 8 pay.length] ++ pay)) ∧
      WellFormedPacket bs)

/-- R62: the frame-level round trip, in both directions. -/
def Obligations.FrameParseAndBuildAreInverse : Prop :=
  (∀ (src id : Byte) (pay : List Byte), pay.length ≤ 255 →
    ∃ bs, frameBuild src id pay = .ok bs ∧
      frameParse bs = .ok { src := src, id := id, len := BitVec.ofNat 8 pay.length, pay := pay }) ∧
  (∀ (bs : List Byte) (f : Frame), frameParse bs = .ok f → frameBuild f.src f.id f.pay = .ok bs)

/-- Derived in R50 and R108: a frame with its last bytes cut off, or with bytes appended (another frame, say), is
never a frame. -/
def Obligations.ShortenedOrExtendedFrameIsRejected : Prop :=
  ∀ (bs : List Byte) (f : Frame), frameParse bs = .ok f →
    (∀ n, n < bs.length → ∃ e, frameParse (bs.take n) = .error e) ∧
    (∀ tail, tail ≠ [] → ∃ e, frameParse (bs ++ tail) = .error e)

/-! ### Classification, decoding, encoding -/

/-- R32, R33: `classify`, branch by branch, and every id outside the catalog is `GENERIC` at every length. -/
def Obligations.ClassifyFollowsTheCatalog : Prop :=
  ∀ (id : Byte) (len : Nat), classify id len =
    if id ∉ ([254, 252, 253, 239, 238, 234, 218, 219, 200, 202, 126, 123, 121] : List Byte) then .generic
    else if id = 239 then (if 17 ≤ len then .entry .implData else .none)
    else if id = 254 ∧ len = 9 then .entry .steerCmd
    else if id = 252 ∧ len = 12 then .entry .steerSet
    else if id = 253 ∧ len = 8 then .entry .steerFb
    else if id = 238 ∧ len = 6 then .entry .implCfg
    else if id = 234 ∧ len = 2 then .entry .implFb
    else if id = 218 ∧ len = 4 then .entry .imuCfg
    else if id = 219 ∧ len = 16 then .entry .imuData
    else if id = 200 ∧ len = 3 then .entry .helloHost
    else if id = 202 ∧ len = 2 then .entry .scanReq
    else if id = 126 ∧ len = 3 then .entry .helloSteer
    else if id = 123 ∧ len = 3 then .entry .helloImpl
    else if id = 121 ∧ len = 3 then .entry .helloImu
    else .none

/-- R12: code and messageId of every kind, row by row, over every kind there is; code 15 is no kind's. -/
def Obligations.KindCodesAndIdsAreAsListed : Prop :=
  Kind.code .none = 0 ∧ Kind.code .generic = 1 ∧
  Entry.all.map (fun e => ((Kind.entry e).code.toNat, e.id.toNat)) =
    [(2, 254), (3, 252), (4, 253), (5, 239), (6, 238), (7, 234), (8, 218), (9, 219), (10, 200), (11, 202), (12, 126),
     (13, 123), (14, 121)] ∧
  (∀ k : Kind, k = .none ∨ k = .generic ∨ ∃ e ∈ Entry.all, k = .entry e) ∧ (∀ k : Kind, k.code ≠ 15)

/-- Derived from the tables of R11 and R94: the status codes, and the error class each stands for. -/
def Obligations.StatusCodesNameTheErrorClasses : Prop :=
  [RxStatus.idle, .busy, .ok, .errShort, .errHeader, .errChecksum, .errLength].map
      (fun s => (s.code.toNat, s.errorClass)) =
    [(0, none), (1, none), (2, none), (3, some .malformedFrame), (4, some .malformedFrame),
     (5, some .checksumMismatch), (6, some .malformedFrame)] ∧
  [TxStatus.idle, .busy, .done, .errInvalidArgument].map (fun s => (s.code.toNat, s.errorClass)) =
    [(0, none), (1, none), (2, none), (3, some .invalidArgument)] ∧
  (∀ s : RxStatus, s.code.toNat ≤ 6) ∧ (∀ s : TxStatus, s.code.toNat ≤ 3)

/-- Derived from R39 (the check V95 of spec/95_test_vectors.md): for every source, id and length byte the rows of
opcode_table.json that apply are exactly the kind `classify` gives, and none where it gives `NONE`; so no two rows
overlap. -/
def Obligations.OpcodeTableSelectsWhatClassifySelects : Prop :=
  ∀ src id len : Byte, tableKinds (headerWord 0x80 0x81 src id len) =
    if classify id len.toNat = .none then [] else [classify id len.toNat]

/-- Derived from the layouts of R79 to R92: decoding the encoding of any well-formed instruction gives it back, with
every operand at every value. -/
def Obligations.DecodeOfEncodeIsTheInstruction : Prop :=
  ∀ i : Instr, i.wellFormed = true → decode (encode i) = .ok i

/-- Derived: whatever packet decodes to an instruction is that instruction's encoding, so a packet has one meaning
and no byte of it is dropped. -/
def Obligations.EncodeOfDecodeIsThePacket : Prop :=
  ∀ (bs : List Byte) (i : Instr), decode bs = .ok i → i.wellFormed = true ∧ encode i = bs

/-- Frames written out from the spec decode to what they stand for (V1, V66, V68, V76, V82, V9 of
spec/95_test_vectors.md), a catalog id with a wrong length is refused by name (V24), and so is a bad trailer (V20). -/
def Obligations.FramesOfTheSpecDecode : Prop :=
  decode [0x80, 0x81, 0x7F, 0xFE, 0x09, 0x00, 0x69, 0x01, 0x02, 0x0D, 0x00, 0x96, 0x00, 0x00, 0x95]
    = .ok (.steerCmd 0x7F 105 1 525 150 [0, 0]) ∧
  decode [0x80, 0x81, 0x7E, 0xFD, 0x08, 0xFE, 0xA2, 0x03, 0x80, 0x00, 0x00, 0x00, 0x00, 0xA6]
    = .ok (.steerFb 0x7E 0xFEA2 3 128 [0, 0, 0, 0]) ∧
  decode [0x80, 0x81, 0x7F, 0xEF, 0x13, 0x01, 0x00, 0x01, 0x00, 0x01, 0x00, 0x01, 0x00, 0x00, 0x00, 0x00, 0x00, 0x00,
      0x00, 0x00, 0x01, 0x02, 0xAA, 0x55, 0x87]
    = .ok (.implData 0x7F [1, 0, 1, 0, 1, 0, 1, 0] [0, 0, 0, 0, 0, 0, 0, 1] 2 [0xAA, 0x55]) ∧
  decode [0x80, 0x81, 0x79, 0xDB, 0x10, 0xFF, 0x83, 0x00, 0xC8, 0x8C, 0x9F, 0xFF, 0xF9, 0x01, 0x00, 0x00,
      0x00, 0x00, 0x00, 0x00, 0x00, 0xD2]
    = .ok (.imuData 0x79 0xFF83 200 35999 0xFFF9 1 [0, 0, 0, 0, 0, 0, 0]) ∧
  decode [0x80, 0x81, 0x7E, 0x7E, 0x03, 0x05, 0x00, 0x00, 0x04] = .ok (.helloSteer 0x7E 5 [0, 0]) ∧
  decode [0x80, 0x81, 0x7F, 0x64, 0x00, 0xE3] = .ok (.generic 0x7F 100 []) ∧
  decode [0x80, 0x81, 0x7F, 0xFE, 0x07, 0x00, 0x69, 0x01, 0x02, 0x0D, 0x00, 0x96, 0x93]
    = .error .lengthDoesNotFit ∧
  decode [0x80, 0x81, 0x7F, 0xFE, 0x09, 0x00, 0x69, 0x01, 0x02, 0x0D, 0x00, 0x96, 0x00, 0x00, 0x96]
    = .error (.parse .checksum)

/-! ### The typed layer -/

/-- Derived from R68 and R69: `MSG.PARSE` is the typed reading of the decoded instruction's operands, and
`MSG.PARSE.<kind>` is its restriction to one entry. -/
def Obligations.MsgParseReadsTheDecodedInstruction : Prop :=
  (∀ (bs : List Byte) (i : Instr), decode bs = .ok i → msgParse bs = some i.message) ∧
  (∀ (bs : List Byte) (e : DecodeError), decode bs = .error e → msgParse bs = none) ∧
  (∀ (bs : List Byte) (e : Entry) (r : Record),
    msgParseEntry e bs = some r ↔ msgParse bs = some (.record r) ∧ r.entry = e)

/-- R75: what a typed build emits parses back to the same integers; the converse holds exactly when the reserved
bytes are zero and the source byte is `SRC_OF`. -/
def Obligations.TypedRoundTrip : Prop :=
  (∀ (r : Record) (bs : List Byte), msgBuild r = .ok bs →
    msgParse bs = some (.record r) ∧ msgParseEntry r.entry bs = some r) ∧
  (∀ (r : Record) (bs : List Byte), msgParse bs = some (.record r) →
    (msgBuild r = .ok bs ↔
      bs[2]? = some r.entry.source ∧ ∀ k ∈ r.entry.reservedIndices, bs[k]? = some 0))

/-- R77: the source byte a typed build writes, kind by kind; a caller who wants another uses `FRAME.BUILD` with the
packed payload; and no parser consults the source byte at all. -/
def Obligations.SourceByteIsWrittenAndNeverTested : Prop :=
  (∀ (r : Record) (bs : List Byte), msgBuild r = .ok bs → bs[2]? = some (tableSource r.entry)) ∧
  (∀ (r : Record) (pay : List Byte) (src : Byte), payloadOf r = .ok pay →
    ∃ bs, frameBuild src r.entry.id pay = .ok bs ∧ msgParse bs = some (.record r)) ∧
  (∀ (src src' id : Byte) (pay : List Byte), pay.length ≤ 255 →
    msgParse (frameBytes src id pay) = msgParse (frameBytes src' id pay) ∧
    (∀ e, msgParseEntry e (frameBytes src id pay) = msgParseEntry e (frameBytes src' id pay)) ∧
    helloParse (frameBytes src id pay) = helloParse (frameBytes src' id pay) ∧
    ∃ f, frameParse (frameBytes src id pay) = .ok f ∧ f.src = src)

/-- R79: the build and the parse of `STEER_CMD`, and the scales its table records (outside the block, R74). -/
def Obligations.SteerCmdBuildAndParse : Prop :=
  (∀ speed status angle xte : Int,
    (0 ≤ speed ∧ speed ≤ 65535) ∧ (0 ≤ status ∧ status ≤ 255) ∧ (-32768 ≤ angle ∧ angle ≤ 32767) ∧
      (-32768 ≤ xte ∧ xte ≤ 32767) →
    msgBuild (.steerCmd speed status angle xte) = .ok (frameBytes 0x7F 254
      [hiByte speed, loByte speed, BitVec.ofInt 8 status, hiByte angle, loByte angle, hiByte xte, loByte xte,
        0, 0])) ∧
  (∀ speed status angle xte : Int,
    ¬ ((0 ≤ speed ∧ speed ≤ 65535) ∧ (0 ≤ status ∧ status ≤ 255) ∧ (-32768 ≤ angle ∧ angle ≤ 32767) ∧
      (-32768 ≤ xte ∧ xte ≤ 32767)) →
    msgBuild (.steerCmd speed status angle xte) = .error .invalidArgument) ∧
  (∀ src b0 b1 b2 b3 b4 b5 b6 b7 b8 : Byte,
    msgParse (frameBytes src 254 [b0, b1, b2, b3, b4, b5, b6, b7, b8]) =
      some (.record (.steerCmd (unsigned2 b0 b1) b2.toNat (signed2 b3 b4) (signed2 b5 b6)))) ∧
  (∀ (src : Byte) (pay : List Byte), pay.length ≤ 255 → pay.length ≠ 9 →
    msgParse (frameBytes src 254 pay) = none) ∧
  (Field.speed.scale = some 10 ∧ Field.status.scale = some 1 ∧ Field.steerAngle.scale = some 100 ∧
    Field.crossTrackError.scale = some 1)

/-- R81: the build and the parse of `STEER_FB`, and the scales its table records. -/
def Obligations.SteerFbBuildAndParse : Prop :=
  (∀ angle switches flags : Int,
    (-32768 ≤ angle ∧ angle ≤ 32767) ∧ (0 ≤ switches ∧ switches ≤ 255) ∧ (0 ≤ flags ∧ flags ≤ 255) →
    msgBuild (.steerFb angle switches flags) = .ok (frameBytes 0x7E 253
      [hiByte angle, loByte angle, BitVec.ofInt 8 switches, BitVec.ofInt 8 flags, 0, 0, 0, 0])) ∧
  (∀ angle switches flags : Int,
    ¬ ((-32768 ≤ angle ∧ angle ≤ 32767) ∧ (0 ≤ switches ∧ switches ≤ 255) ∧ (0 ≤ flags ∧ flags ≤ 255)) →
    msgBuild (.steerFb angle switches flags) = .error .invalidArgument) ∧
  (∀ src b0 b1 b2 b3 b4 b5 b6 b7 : Byte,
    msgParse (frameBytes src 253 [b0, b1, b2, b3, b4, b5, b6, b7]) =
      some (.record (.steerFb (signed2 b0 b1) b2.toNat b3.toNat))) ∧
  (∀ (src : Byte) (pay : List Byte), pay.length ≤ 255 → pay.length ≠ 8 →
    msgParse (frameBytes src 253 pay) = none) ∧
  (Field.actualAngle.scale = some 100 ∧ Field.switchStates.scale = some 1 ∧ Field.statusFlags.scale = some 1)

/-- R82: the build and the parse of `IMPL_DATA`, the one entry of variable length. -/
def Obligations.ImplDataBuildAndParse : Prop :=
  (∀ (lo hi : List Int) (tramline : Int) (sections : List Int),
    (lo.length = 8 ∧ hi.length = 8 ∧ sections.length ≤ 238) ∧
      (allU8 lo ∧ allU8 hi ∧ allU8 sections ∧ 0 ≤ tramline ∧ tramline ≤ 255) →
    msgBuild (.implData lo hi tramline sections) = .ok (frameBytes 0x7F 239
      ((lo ++ hi ++ [tramline] ++ sections).map (BitVec.ofInt 8)))) ∧
  (∀ (lo hi : List Int) (tramline : Int) (sections : List Int),
    ¬ ((lo.length = 8 ∧ hi.length = 8 ∧ sections.length ≤ 238) ∧
      (allU8 lo ∧ allU8 hi ∧ allU8 sections ∧ 0 ≤ tramline ∧ tramline ≤ 255)) →
    msgBuild (.implData lo hi tramline sections) = .error .invalidArgument) ∧
  (∀ (src : Byte) (lo hi : List Byte) (tramline : Byte) (sections : List Byte),
    lo.length = 8 → hi.length = 8 → sections.length ≤ 238 →
    msgParse (frameBytes src 239 (lo ++ hi ++ [tramline] ++ sections)) =
      some (.record (.implData (lo.map fun b => (b.toNat : Int)) (hi.map fun b => (b.toNat : Int))
        tramline.toNat (sections.map fun b => (b.toNat : Int))))) ∧
  (∀ (src : Byte) (pay : List Byte), pay.length < 17 → msgParse (frameBytes src 239 pay) = none)

/-- R86: the build and the parse of `IMU_DATA`, and the scales its table records (`yawRate` none). -/
def Obligations.ImuDataBuildAndParse : Prop :=
  (∀ roll pitch heading yaw calibrated : Int,
    (-32768 ≤ roll ∧ roll ≤ 32767) ∧ (-32768 ≤ pitch ∧ pitch ≤ 32767) ∧ (0 ≤ heading ∧ heading ≤ 65535) ∧
      (-32768 ≤ yaw ∧ yaw ≤ 32767) ∧ (0 ≤ calibrated ∧ calibrated ≤ 255) →
    msgBuild (.imuData roll pitch heading yaw calibrated) = .ok (frameBytes 0x79 219
      [hiByte roll, loByte roll, hiByte pitch, loByte pitch, hiByte heading, loByte heading, hiByte yaw,
        loByte yaw, BitVec.ofInt 8 calibrated, 0, 0, 0, 0, 0, 0, 0])) ∧
  (∀ roll pitch heading yaw calibrated : Int,
    ¬ ((-32768 ≤ roll ∧ roll ≤ 32767) ∧ (-32768 ≤ pitch ∧ pitch ≤ 32767) ∧ (0 ≤ heading ∧ heading ≤ 65535) ∧
      (-32768 ≤ yaw ∧ yaw ≤ 32767) ∧ (0 ≤ calibrated ∧ calibrated ≤ 255)) →
    msgBuild (.imuData roll pitch heading yaw calibrated) = .error .invalidArgument) ∧
  (∀ (src b0 b1 b2 b3 b4 b5 b6 b7 b8 : Byte) (reserved : List Byte), reserved.length = 7 →
    msgParse (frameBytes src 219 ([b0, b1, b2, b3, b4, b5, b6, b7, b8] ++ reserved)) =
      some (.record (.imuData (signed2 b0 b1) (signed2 b2 b3) (unsigned2 b4 b5) (signed2 b6 b7) b8.toNat))) ∧
  (∀ (src : Byte) (pay : List Byte), pay.length ≤ 255 → pay.length ≠ 16 →
    msgParse (frameBytes src 219 pay) = none) ∧
  (Field.roll.scale = some 100 ∧ Field.pitch.scale = some 100 ∧ Field.heading.scale = some 100 ∧
    Field.yawRate.scale = none ∧ Field.calibrated.scale = some 1)

/-- R80, R83, R84, R85, R87, R88, R76: the six entries without a layout carry their bytes unchanged. -/
def Obligations.OpaqueEntriesBuildAndParse : Prop :=
  OpaqueEntry .steerSet 0x7F 252 12 ∧ OpaqueEntry .implCfg 0x7F 238 6 ∧ OpaqueEntry .implFb 0x7B 234 2 ∧
  OpaqueEntry .imuCfg 0x7F 218 4 ∧ OpaqueEntry .helloHost 0x7F 200 3 ∧ OpaqueEntry .scanReq 0x7F 202 2

/-- R89, R90, R91: the three module hellos. -/
def Obligations.ModuleHellosBuildAndParse : Prop :=
  HelloEntry .helloSteer 0x7E 126 ∧ HelloEntry .helloImpl 0x7B 123 ∧ HelloEntry .helloImu 0x79 121

/-- R33, and the parse of R92: an id outside the catalog classifies as `GENERIC` at every length, and its frame is a
generic frame with its id and raw payload, never "no message". -/
def Obligations.UnknownIdParsesAsGeneric : Prop :=
  ∀ (src id : Byte) (pay : List Byte), pay.length ≤ 255 →
    id ∉ ([254, 252, 253, 239, 238, 234, 218, 219, 200, 202, 126, 123, 121] : List Byte) →
    (∀ len, classify id len = .generic) ∧ msgParse (frameBytes src id pay) = some (.generic id pay)

/-- R93: `HELLO.PARSE` on well-formed frames of each kind, whatever the source and the reserved bytes, and on
everything that is no module hello; in the binding, `Some` exactly for the three kinds, with the version in
`RX_PAY[0]`. -/
def Obligations.HelloParseNamesModuleAndVersion : Prop :=
  (∀ src version r0 r1 : Byte,
    helloParse (frameBytes src 126 [version, r0, r1]) = some (ModuleKind.steeringActuator, (version.toNat : Int)) ∧
    helloParse (frameBytes src 123 [version, r0, r1]) = some (ModuleKind.implementController, (version.toNat : Int)) ∧
    helloParse (frameBytes src 121 [version, r0, r1]) = some (ModuleKind.inertialUnit, (version.toNat : Int))) ∧
  (∀ bs : List Byte, (∀ src version r0 r1 : Byte,
      bs ≠ frameBytes src 126 [version, r0, r1] ∧ bs ≠ frameBytes src 123 [version, r0, r1] ∧
      bs ≠ frameBytes src 121 [version, r0, r1]) →
    helloParse bs = none) ∧
  (∀ s : State, BlockInv s →
    (∀ m v, viewHello s = some (m, v) ↔
      (rxKind s = .entry .helloSteer ∧ m = .steeringActuator ∨
        rxKind s = .entry .helloImpl ∧ m = .implementController ∨
        rxKind s = .entry .helloImu ∧ m = .inertialUnit) ∧
      ∃ b : Byte, readRxPay s 0 = .ok b ∧ v = (b.toNat : Int)) ∧
    ((viewHello s).isSome ↔
      rxKind s = .entry .helloSteer ∨ rxKind s = .entry .helloImpl ∨ rxKind s = .entry .helloImu))

/-! ### The meaning of each instruction: the reception of its frame -/

/-- Derived from R79, R51, R54, R78: receiving any `STEER_CMD` frame completes, shows its fields, and changes nothing
else. That the whole reception leaves `rx_acc` and `rx_hdr_ok` as they were (`ReceptionKeeps`) is the model's choice,
log entry 10 (DEDUCED), and no rule's: R53 writes both while the bytes arrive. -/
def Obligations.ReceptionOfSteerCmd : Prop :=
  ∀ (src : Byte) (speed : Half) (status : Byte) (angle xte : Half) (r0 r1 : Byte) (s : State),
    ∃ t, exec (.steerCmd src speed status angle xte [r0, r1]) s = .next t ∧
      Receives src 254
        [BitVec.ofNat 8 (speed.toNat / 256), BitVec.ofNat 8 speed.toNat, status,
          BitVec.ofNat 8 (angle.toNat / 256), BitVec.ofNat 8 angle.toNat,
          BitVec.ofNat 8 (xte.toNat / 256), BitVec.ofNat 8 xte.toNat, r0, r1]
        (.entry .steerCmd)
        (.record (.steerCmd speed.toNat status.toNat angle.toInt xte.toInt)) s t

/-- Derived from R81, R51, R54, R78: the same of `STEER_FB`. As above,
`rx_acc` and `rx_hdr_ok` as they were is the model's choice, log entry 10 (DEDUCED). -/
def Obligations.ReceptionOfSteerFb : Prop :=
  ∀ (src : Byte) (angle : Half) (switches flags : Byte) (r0 r1 r2 r3 : Byte) (s : State),
    ∃ t, exec (.steerFb src angle switches flags [r0, r1, r2, r3]) s = .next t ∧
      Receives src 253
        [BitVec.ofNat 8 (angle.toNat / 256), BitVec.ofNat 8 angle.toNat, switches, flags, r0, r1, r2, r3]
        (.entry .steerFb)
        (.record (.steerFb angle.toInt switches.toNat flags.toNat)) s t

/-- Derived from R82, R51, R54, R78: the same of `IMPL_DATA`, for every section count it admits. As above,
`rx_acc` and `rx_hdr_ok` as they were is the model's choice, log entry 10 (DEDUCED). -/
def Obligations.ReceptionOfImplData : Prop :=
  ∀ (src : Byte) (lo hi : List Byte) (tramline : Byte) (sections : List Byte) (s : State),
    lo.length = 8 → hi.length = 8 → sections.length ≤ 238 →
    ∃ t, exec (.implData src lo hi tramline sections) s = .next t ∧
      Receives src 239 (lo ++ hi ++ [tramline] ++ sections) (.entry .implData)
        (.record (.implData (lo.map fun b => (b.toNat : Int)) (hi.map fun b => (b.toNat : Int)) tramline.toNat
          (sections.map fun b => (b.toNat : Int)))) s t

/-- Derived from R86, R51, R54, R78: the same of `IMU_DATA`. As above,
`rx_acc` and `rx_hdr_ok` as they were is the model's choice, log entry 10 (DEDUCED). -/
def Obligations.ReceptionOfImuData : Prop :=
  ∀ (src : Byte) (roll pitch heading yaw : Half) (calibrated : Byte) (reserved : List Byte) (s : State),
    reserved.length = 7 →
    ∃ t, exec (.imuData src roll pitch heading yaw calibrated reserved) s = .next t ∧
      Receives src 219
        ([BitVec.ofNat 8 (roll.toNat / 256), BitVec.ofNat 8 roll.toNat,
          BitVec.ofNat 8 (pitch.toNat / 256), BitVec.ofNat 8 pitch.toNat,
          BitVec.ofNat 8 (heading.toNat / 256), BitVec.ofNat 8 heading.toNat,
          BitVec.ofNat 8 (yaw.toNat / 256), BitVec.ofNat 8 yaw.toNat, calibrated] ++ reserved)
        (.entry .imuData)
        (.record (.imuData roll.toInt pitch.toInt heading.toNat yaw.toInt calibrated.toNat)) s t

/-- Derived from R76, R80, R83 to R85, R87, R88 with R51, R54, R78: the same of the six opaque entries `STEER_SET`,
`IMPL_CFG`, `IMPL_FB`, `IMU_CFG`, `HELLO_HOST`, `SCAN_REQ`. For all six, `rx_acc` and `rx_hdr_ok` as they were is the
model's choice, log entry 10 (DEDUCED). -/
def Obligations.ReceptionOfOpaqueEntries : Prop :=
  ∀ (src : Byte) (raw : List Byte) (s : State),
    (raw.length = 12 → ∃ t, exec (.steerSet src raw) s = .next t ∧
      Receives src 252 raw (.entry .steerSet) (.record (.steerSet (raw.map fun b => (b.toNat : Int)))) s t) ∧
    (raw.length = 6 → ∃ t, exec (.implCfg src raw) s = .next t ∧
      Receives src 238 raw (.entry .implCfg) (.record (.implCfg (raw.map fun b => (b.toNat : Int)))) s t) ∧
    (raw.length = 2 → ∃ t, exec (.implFb src raw) s = .next t ∧
      Receives src 234 raw (.entry .implFb) (.record (.implFb (raw.map fun b => (b.toNat : Int)))) s t) ∧
    (raw.length = 4 → ∃ t, exec (.imuCfg src raw) s = .next t ∧
      Receives src 218 raw (.entry .imuCfg) (.record (.imuCfg (raw.map fun b => (b.toNat : Int)))) s t) ∧
    (raw.length = 3 → ∃ t, exec (.helloHost src raw) s = .next t ∧
      Receives src 200 raw (.entry .helloHost) (.record (.helloHost (raw.map fun b => (b.toNat : Int)))) s t) ∧
    (raw.length = 2 → ∃ t, exec (.scanReq src raw) s = .next t ∧
      Receives src 202 raw (.entry .scanReq) (.record (.scanReq (raw.map fun b => (b.toNat : Int)))) s t)

/-- Derived from R89 to R91 with R51, R54, R78: the same of the three module hellos `HELLO_STEER`, `HELLO_IMPL`,
`HELLO_IMU`; the binding's hello view (R93) names the module and the version. For all three, `rx_acc` and `rx_hdr_ok`
as they were is the model's choice, log entry 10 (DEDUCED). -/
def Obligations.ReceptionOfModuleHellos : Prop :=
  ∀ (src version r0 r1 : Byte) (s : State),
    (∃ t, exec (.helloSteer src version [r0, r1]) s = .next t ∧
      Receives src 126 [version, r0, r1] (.entry .helloSteer) (.record (.helloSteer version.toNat)) s t ∧
      viewHello t = some (ModuleKind.steeringActuator, (version.toNat : Int))) ∧
    (∃ t, exec (.helloImpl src version [r0, r1]) s = .next t ∧
      Receives src 123 [version, r0, r1] (.entry .helloImpl) (.record (.helloImpl version.toNat)) s t ∧
      viewHello t = some (ModuleKind.implementController, (version.toNat : Int))) ∧
    (∃ t, exec (.helloImu src version [r0, r1]) s = .next t ∧
      Receives src 121 [version, r0, r1] (.entry .helloImu) (.record (.helloImu version.toNat)) s t ∧
      viewHello t = some (ModuleKind.inertialUnit, (version.toNat : Int)))

/-- Derived from R92, R33 with R51, R54, R78: the same of `GENERIC`, for every id outside the catalog and every
payload. As above, `rx_acc` and `rx_hdr_ok` as they were is the model's choice, log entry 10 (DEDUCED). -/
def Obligations.ReceptionOfGeneric : Prop :=
  ∀ (src id : Byte) (pay : List Byte) (s : State), pay.length ≤ 255 →
    id ∉ ([254, 252, 253, 239, 238, 234, 218, 219, 200, 202, 126, 123, 121] : List Byte) →
    ∃ t, exec (.generic src id pay) s = .next t ∧ Receives src id pay .generic (.generic id pay) s t

/-- Derived from R54: in a state whose registers hold the frame of an instruction, its meaning is exactly the end of
packet of R54: `RX_STATUS = OK`, `rx_pos = 0`, and every register, buffer byte and port as it was. -/
def Obligations.ReceptionOfTheHeldFrameIsEndOfPacket : Prop :=
  ∀ (s : State) (f : Frame) (i : Instr), s.rxPay.wf → heldFrame s = some f → decodeFrame f = some i →
    exec i s = .next { s with rxStatus := .ok, rxPos := 0 }

/-! ### The RX unit -/

/-- A step runs the decoded instruction: when the final byte of a packet passes the four tests and the frame the
registers hold decodes to `i`, the step is `exec i`, after the event has been taken off the queue. -/
def Obligations.StepRunsTheDecodedInstruction : Prop :=
  ∀ (s : State) (b : Byte) (es : List Event) (f : Frame) (i : Instr), QueueMoves s →
    s.events = .rxByte b true :: es → rxVerdict b s = .ok → heldFrame s = some f → decodeFrame f = some i →
    step s = exec i { s with events := es }

/-- R53, with the position of R10: the step of a byte that is not the last. -/
def Obligations.ByteInsideAPacketUpdatesTheRegisters : Prop :=
  ∀ (s : State) (b : Byte) (es : List Event), QueueMoves s → s.events = .rxByte b false :: es →
    ∃ t, step s = .next t ∧ SameTx s t ∧ t.events = es ∧ t.held = s.held ∧ t.out = s.out ∧
      t.rxPos.toNat = min (s.rxPos.toNat + 1) 511 ∧
      t.rxStatus = (if s.rxPos.toNat = 0 then .busy else s.rxStatus) ∧
      t.rxAcc.toNat = (if s.rxPos.toNat = 0 then 0
        else if s.rxPos.toNat = 1 then s.rxAcc.toNat else (s.rxAcc.toNat + b.toNat) % 256) ∧
      (t.rxHdrOk = true ↔
        if s.rxPos.toNat = 0 then b = 0x80
        else if s.rxPos.toNat = 1 then s.rxHdrOk = true ∧ b = 0x81 else s.rxHdrOk = true) ∧
      t.rxSrc = (if s.rxPos.toNat = 2 then b else s.rxSrc) ∧
      t.rxId = (if s.rxPos.toNat = 3 then b else s.rxId) ∧
      t.rxLen = (if s.rxPos.toNat = 4 then b else s.rxLen) ∧
      (∀ k, t.rxPay.read k =
        if 5 ≤ s.rxPos.toNat ∧ s.rxPos.toNat ≤ 259 ∧ k = s.rxPos.toNat - 5 then some b else s.rxPay.read k)

/-- R54: the step of the last byte writes the status of the first failing test, or `OK`, returns `rx_pos` to 0 and
changes nothing else; the result then stays until the next `RxByte` or `Reset`. -/
def Obligations.LastByteWritesStatusAndPositionOnly : Prop :=
  (∀ (s : State) (b : Byte) (es : List Event), QueueMoves s → s.rxPay.wf → s.events = .rxByte b true :: es →
    step s = .next
      { s with
        events := es
        rxPos := 0
        rxStatus :=
          if s.rxPos.toNat < 5 then .errShort
          else if s.rxHdrOk = false then .errHeader
          else if s.rxAcc ≠ b then .errChecksum
          else if s.rxLen.toNat ≠ s.rxPos.toNat - 5 then .errLength
          else .ok }) ∧
  (∀ (e : Event) (s t : State), (∀ b last, e ≠ .rxByte b last) → e ≠ .reset → runEvent e s = .next t →
    SameRx s t)

/-- R57: from any state between packets, the events of a packet give exactly what `FRAME.PARSE` gives; the TX unit
and the environment's side are not touched. -/
def Obligations.ReceivingAPacketComputesFrameParse : Prop :=
  ∀ (bs : List Byte) (s : State) (es : List Event), bs ≠ [] → QueueMoves s → s.rxPos = 0 →
    s.events = packetEvents bs ++ es →
    ∃ t, runSteps bs.length s = .next t ∧ t.rxPos = 0 ∧ SameTx s t ∧ t.events = es ∧ t.held = s.held ∧
      t.out = s.out ∧
      (∀ f, frameParse bs = .ok f → t.rxStatus = .ok ∧ readRxSrc t = .ok f.src ∧ readRxId t = .ok f.id ∧
        readRxLen t = .ok f.len ∧ readPayload t = .ok f.pay ∧
        ∀ k (h : k < f.pay.length), readRxPay t k = .ok (f.pay[k]'h)) ∧
      (frameParse bs = .error .short → t.rxStatus = .errShort) ∧
      (frameParse bs = .error .header → t.rxStatus = .errHeader) ∧
      (frameParse bs = .error .checksum → t.rxStatus = .errChecksum) ∧
      (frameParse bs = .error .length → t.rxStatus = .errLength)

/-- Derived: delivering the encoding of a well-formed instruction byte by byte, from any state between packets, ends
in the state its meaning gives, with `rx_acc` the frame's sum and `rx_hdr_ok` set. -/
def Obligations.DeliveredEncodingRunsItsInstruction : Prop :=
  ∀ (i : Instr) (s : State) (es : List Event), i.wellFormed = true → QueueMoves s → s.rxPos = 0 →
    s.rxPay.wf → s.events = packetEvents (encode i) ++ es →
    runSteps (encode i).length s =
      exec i { s with events := es, rxAcc := crcOfFrame i.source i.id i.payload, rxHdrOk := true }

/-- R52 (and R6): the result of a packet depends on that packet only, whatever either RX unit held before. -/
def Obligations.ReceptionForgetsThePast : Prop :=
  ∀ (bs : List Byte) (s1 s2 : State) (es1 es2 : List Event), bs ≠ [] →
    QueueMoves s1 → QueueMoves s2 → s1.rxPos = 0 → s2.rxPos = 0 →
    s1.events = packetEvents bs ++ es1 → s2.events = packetEvents bs ++ es2 →
    ∃ t1 t2, runSteps bs.length s1 = .next t1 ∧ runSteps bs.length s2 = .next t2 ∧ SameReadings t1 t2

/-- R78, with R93 in the binding: after a packet, `RX_KIND`, the typed views and the hello view are what `MSG.PARSE`,
`MSG.PARSE.<kind>` and `HELLO.PARSE` give for it. -/
def Obligations.TypedViewsComputeMsgParse : Prop :=
  ∀ (bs : List Byte) (s : State) (es : List Event), bs ≠ [] → QueueMoves s → s.rxPos = 0 →
    s.events = packetEvents bs ++ es →
    ∃ t, runSteps bs.length s = .next t ∧ (rxKind t = .none ↔ msgParse bs = none) ∧
      viewMessage t = msgParse bs ∧ viewHello t = helloParse bs ∧
      (∀ e r, viewEntry e t = .ok r ↔ msgParseEntry e bs = some r)

/-- R34: a well-formed frame with a catalog id and a length that does not fit is no message at the typed layer, and
is accepted and readable at the frame level. -/
def Obligations.MisfitLengthIsAcceptedWithoutMessage : Prop :=
  ∀ (src id : Byte) (pay : List Byte) (s : State) (es : List Event), pay.length ≤ 255 →
    classify id pay.length = .none → QueueMoves s → s.rxPos = 0 →
    s.events = packetEvents (frameBytes src id pay) ++ es →
    msgParse (frameBytes src id pay) = none ∧ (∀ e, msgParseEntry e (frameBytes src id pay) = none) ∧
    ∃ t, runSteps (6 + pay.length) s = .next t ∧ t.rxStatus = .ok ∧ rxKind t = .none ∧
      readRxSrc t = .ok src ∧ readRxId t = .ok id ∧ readRxLen t = .ok (BitVec.ofNat 8 pay.length) ∧
      readPayload t = .ok pay

/-- Derived in R58: a packet of 262 bytes or more ends in a rejection that is not `ERR_SHORT`, however long it is and
though `rx_pos` saturates. -/
def Obligations.OverlongPacketIsRejected : Prop :=
  ∀ (bs : List Byte) (s : State) (es : List Event), 262 ≤ bs.length → QueueMoves s → s.rxPos = 0 →
    s.events = packetEvents bs ++ es →
    ∃ t, runSteps bs.length s = .next t ∧
      (t.rxStatus = .errHeader ∨ t.rxStatus = .errChecksum ∨ t.rxStatus = .errLength)

/-! ### The TX unit -/

/-- R63, the part of R101 about a build error, and the W9 treatment of spec/93_implementation_defined.md: the step of
a build request at a TX unit that is not `BUSY`. -/
def Obligations.BuildRequestStoresThePacketOrRefuses : Prop :=
  ∀ (src id : Byte) (pay : List Byte) (s : State) (es : List Event), s.held = [] → s.txStatus ≠ .busy →
    s.events = .txBuild (.frame src id pay) :: es →
    (255 < pay.length → pay.length ≤ 65535 →
      step s = .next { s with events := es, txStatus := .errInvalidArgument }) ∧
    (65535 < pay.length → step s = .refused .notPresentable) ∧
    (pay.length ≤ 255 →
      ∃ t, step s = .next t ∧ t.txStatus = .busy ∧ t.txPos = 0 ∧
        readTxN t = .ok (BitVec.ofNat 9 (6 + pay.length)) ∧
        (∀ k (h : k < (frameBytes src id pay).length), readTxPkt t k = .ok ((frameBytes src id pay)[k]'h)) ∧
        (∀ k, 6 + pay.length ≤ k → t.txPkt.read k = s.txPkt.read k) ∧
        SameRx s t ∧ t.events = es ∧ t.held = s.held ∧ t.out = s.out)

/-- Derived from R70 and R101, with the W9 treatment of spec/93_implementation_defined.md: a typed build request is the
`TxBuild` of its packed payload with `SRC_OF` and `ID_OF`, so the packet is the one `MSG.BUILD` gives; on a failed check
nothing is built and only the status changes; with an operand outside the signed 32-bit port range (R72) it cannot be
presented and is refused by name (log entry 6). -/
def Obligations.TypedBuildRequestIsTheFrameRequest : Prop :=
  ∀ (r : Record) (s : State) (es : List Event), s.held = [] → s.txStatus ≠ .busy →
    s.events = .txBuild (.typed r) :: es →
    (∀ bs, msgBuild r = .ok bs →
      ∃ t, step s = .next t ∧ t.txStatus = .busy ∧ t.txPos = 0 ∧ readTxN t = .ok (BitVec.ofNat 9 bs.length) ∧
        (∀ k (h : k < bs.length), readTxPkt t k = .ok (bs[k]'h)) ∧
        (∀ k, bs.length ≤ k → t.txPkt.read k = s.txPkt.read k) ∧
        SameRx s t ∧ t.events = es ∧ t.held = s.held ∧ t.out = s.out) ∧
    (msgBuild r = .error .invalidArgument → (∀ v ∈ operandsOf r, -2147483648 ≤ v ∧ v ≤ 2147483647) →
      step s = .next { s with events := es, txStatus := .errInvalidArgument }) ∧
    ((∃ v ∈ operandsOf r, v < -2147483648 ∨ 2147483647 < v) → step s = .refused .notPresentable)

/-- R64: the step of `TxEmit`, and that it has none unless `BUSY` (a stop by name, log entry 5). `TxEmit` has no input
(R7): the step is the same where the queue names it and where nothing is left in the queue (log entry 1). -/
def Obligations.EmitHandsOutOneByte : Prop :=
  ∀ (s : State) (es : List Event), s.events = .txEmit :: es ∨ s.events = [] ∧ es = [] →
    (∀ b, s.txStatus = .busy → s.txPos.toNat < s.txN.toNat → s.txPkt.read s.txPos.toNat = some b →
      ∃ t, step s = .next t ∧ t.out = s.out ++ [{ byte := b, last := decide (s.txPos.toNat = s.txN.toNat - 1) }] ∧
        t.txPos = s.txPos + 1 ∧
        t.txStatus = (if s.txPos.toNat = s.txN.toNat - 1 then .done else .busy) ∧
        t.txN = s.txN ∧ t.txPkt = s.txPkt ∧ SameRx s t ∧ t.events = es ∧ t.held = s.held) ∧
    (s.txStatus ≠ .busy → s.held = [] → s.events = .txEmit :: es → step s = .fault .txEmitNotEnabled)

/-- Derived from R66: a build request that arrives while `BUSY` changes no register and is held. The second clause, that
the oldest held request moves as soon as the unit is not `BUSY` and before any further event, is the model's choice of an
order, log entry 1 (DESIGN CHOICE), and no rule's; what the request does then is R63's and R70's, register by
register. -/
def Obligations.BuildRequestIsHeldWhileBusy : Prop :=
  (∀ (r : TxRequest) (s : State) (es : List Event), s.txStatus = .busy → presentable r = true →
    s.events = .txBuild r :: es →
    ∃ t, step s = .next t ∧ SameRx s t ∧ SameTx s t ∧ t.events = es ∧ t.held = s.held ++ [r] ∧ t.out = s.out) ∧
  (∀ (r : TxRequest) (rest : List TxRequest) (s : State), s.txStatus ≠ .busy → s.held = r :: rest →
    ∃ t, step s = .next t ∧ t = txStart r { s with held := rest } ∧ RequestTakesEffect r s t ∧
      t.events = s.events ∧ t.held = rest ∧ t.out = s.out)

/-- Derived in R66, R115: from any state of the invariant that is `BUSY`, `TxEmit` reaches `DONE` after exactly the bytes
left, at most 261, whether the queue names the moves or is empty (the TX unit's own moves, R7); and a hold always ends:
whatever the queue holds, provided its build requests can be presented, after at most its events and 261 more steps the
unit is not `BUSY` and the held request is the next move. That the queue is taken before the unit's own moves, and the
held request before the queue, is log entry 1. -/
def Obligations.EmissionEndsWithin261Events : Prop :=
  (∀ (s : State) (es : List Event), BlockInv s → s.txStatus = .busy →
    s.events = List.replicate (s.txN.toNat - s.txPos.toNat) .txEmit ++ es ∨ s.events = [] ∧ es = [] →
    s.txN.toNat - s.txPos.toNat ≤ 261 ∧
    ∃ t, runSteps (s.txN.toNat - s.txPos.toNat) s = .next t ∧ t.txStatus = .done ∧ t.txN = s.txN ∧
      t.txPkt = s.txPkt ∧ t.events = es ∧ t.held = s.held ∧ SameRx s t ∧
      t.out.length = s.out.length + (s.txN.toNat - s.txPos.toNat)) ∧
  (∀ (s : State) (r : TxRequest) (rest : List TxRequest), BlockInv s → s.txStatus = .busy → s.held = r :: rest →
    (∀ q, Event.txBuild q ∈ s.events → presentable q = true) →
    ∃ n t more, n ≤ s.events.length + 261 ∧ runSteps n s = .next t ∧ t.txStatus ≠ .busy ∧
      t.held = r :: (rest ++ more) ∧ step t = .next (txStart r { t with held := rest ++ more }))

/-- Derived in R65: from any state in which the TX unit is not `BUSY`, a build followed by `TxEmit` until it is disabled
hands out exactly the bytes of `FRAME.BUILD`, in index order, `last` on the final byte only; a refused build hands out
nothing. -/
def Obligations.BuildAndEmitHandOutTheFrame : Prop :=
  ∀ (src id : Byte) (pay : List Byte) (s : State) (es : List Event), s.held = [] → s.txStatus ≠ .busy →
    (∀ bs, frameBuild src id pay = .ok bs →
      s.events = .txBuild (.frame src id pay) :: (List.replicate bs.length .txEmit ++ es) →
      ∃ t, runSteps (1 + bs.length) s = .next t ∧ t.out = s.out ++ emission bs ∧ t.txStatus = .done ∧
        t.events = es ∧ t.held = [] ∧ SameRx s t ∧ enabled .txEmit t = false) ∧
    (frameBuild src id pay = .error .invalidArgument → pay.length ≤ 65535 →
      s.events = .txBuild (.frame src id pay) :: es →
      ∃ t, step s = .next t ∧ t.out = s.out ∧ t.txStatus = .errInvalidArgument ∧ enabled .txEmit t = false)

/-- Derived from R65, R57, R75: a typed message built, handed out byte by byte and delivered to the RX unit is read
there as the same message with the entry's source byte. -/
def Obligations.BuiltMessageLoopsBack : Prop :=
  ∀ (r : Record) (bs : List Byte) (s : State) (es : List Event), msgBuild r = .ok bs → s.held = [] →
    s.txStatus ≠ .busy → s.rxPos = 0 →
    s.events = .txBuild (.typed r) :: (List.replicate bs.length .txEmit ++ (packetEvents bs ++ es)) →
    ∃ t, runSteps (1 + bs.length + bs.length) s = .next t ∧ t.out = s.out ++ emission bs ∧
      t.txStatus = .done ∧ t.rxStatus = .ok ∧ readRxSrc t = .ok r.entry.source ∧
      readRxId t = .ok r.entry.id ∧ viewMessage t = some (.record r) ∧ t.events = es

/-! ### Errors -/

/-- R101: a receive error writes `RX_STATUS` and `rx_pos` only, and no result register has a value; a build error
writes `TX_STATUS` only, nothing is handed out, and `TX_N` and `TX_PKT` have no value. -/
def Obligations.ErrorsChangeTheStatusOnly : Prop :=
  (∀ (s : State) (b : Byte) (es : List Event), QueueMoves s → s.events = .rxByte b true :: es →
    rxVerdict b s ≠ .ok →
    ∃ t, step s = .next t ∧ t = { s with events := es, rxStatus := rxVerdict b s, rxPos := 0 } ∧ NoRxResult t) ∧
  (∀ (r : TxRequest) (s : State) (es : List Event), s.held = [] → s.txStatus ≠ .busy →
    s.events = .txBuild r :: es → presentable r = true → requestPacket r = .error .invalidArgument →
    ∃ t, step s = .next t ∧ t = { s with events := es, txStatus := .errInvalidArgument } ∧ NoTxResult t)

/-! ### Read ports, reset, the whole block -/

/-- Derived from R15: the result registers have a value exactly while the status says so; the value is the register's,
and a read at any other time gives no number. R15 lets such a read fault or be refused; that it is a fault is the model's
choice, log entry 4 (DESIGN CHOICE). -/
def Obligations.ResultRegistersHaveAValueOnlyWhenValid : Prop :=
  ∀ s : State, BlockInv s →
    (s.rxStatus = .ok → readRxSrc s = .ok s.rxSrc ∧ readRxId s = .ok s.rxId ∧ readRxLen s = .ok s.rxLen ∧
      (∀ k, k < s.rxLen.toNat → ∃ b, s.rxPay.read k = some b ∧ readRxPay s k = .ok b) ∧
      (∀ k, s.rxLen.toNat ≤ k → readRxPay s k = .error (.noValue (.rxPay k)))) ∧
    (s.rxStatus ≠ .ok → readRxSrc s = .error (.noValue .rxSrc) ∧ readRxId s = .error (.noValue .rxId) ∧
      readRxLen s = .error (.noValue .rxLen) ∧ ∀ k, readRxPay s k = .error (.noValue (.rxPay k))) ∧
    ((s.txStatus = .busy ∨ s.txStatus = .done) → readTxN s = .ok s.txN ∧
      (∀ k, k < s.txN.toNat → ∃ b, s.txPkt.read k = some b ∧ readTxPkt s k = .ok b) ∧
      (∀ k, s.txN.toNat ≤ k → readTxPkt s k = .error (.noValue (.txPkt k)))) ∧
    ((s.txStatus = .idle ∨ s.txStatus = .errInvalidArgument) → readTxN s = .error (.noValue .txN) ∧
      ∀ k, readTxPkt s k = .error (.noValue (.txPkt k)))

/-- Derived from R78 (W3 of spec/93_implementation_defined.md): a typed view has a value exactly while `RX_KIND` is
its kind, and otherwise the read is a fault (W3 allows a fault or a refusal; the fault is the model's choice, log entry
4, DESIGN CHOICE). -/
def Obligations.TypedViewHasAValueOnlyForItsKind : Prop :=
  ∀ (s : State) (e : Entry), BlockInv s →
    (rxKind s = .entry e → ∃ r, viewEntry e s = .ok r ∧ r.entry = e) ∧
    (rxKind s ≠ .entry e → viewEntry e s = .error (.otherKind e))

/-- The table of R107 for the state after reset: every value the spec gives, no value in any result register, and
which events are enabled. (The numbers stored behind `RX_SRC`, `RX_ID`, `RX_LEN`, `TX_N` are the model's choice, log
entry 2, and are not stated.) -/
def Obligations.ResetStateIsAsSpecified : Prop := AfterReset State.reset

/-- Derived from R107, in any state (R108): `Reset`, mid-packet and mid-emission included, puts every element at its
reset value, and the bytes already handed out stay handed out. That the queue and the held requests stay as well is the
model's choice, log entry 1 (DESIGN CHOICE). -/
def Obligations.ResetEventActsInAnyState : Prop :=
  ∀ (s : State) (es : List Event), QueueMoves s → s.events = .reset :: es →
    ∃ t, step s = .next t ∧ AfterReset t ∧ t.events = es ∧ t.held = s.held ∧ t.out = s.out

/-- The invariant holds after reset. -/
def Obligations.InvariantHoldsAfterReset : Prop := BlockInv State.reset

/-- Every step keeps the invariant: the buffers stay canonical and inside their places, `rx_pos` is 0 exactly between
packets, `rx_acc` is the sum of the span received, an accepted frame is held whole with a matching sum, and a built
packet is well-formed with `tx_pos` inside it (R8 to R11, R14, R15, R46, R61, R64). -/
def Obligations.EveryStepKeepsTheInvariant : Prop :=
  ∀ s t : State, BlockInv s → step s = .next t → BlockInv t

/-- Derived from R7, R112, R113: the receive result stays until the next `RxByte` or `Reset`, the built packet until the
next build request or `Reset`, and no event of one unit writes a register of the other. -/
def Obligations.ResultsLastUntilTheUnitsNextInput : Prop :=
  ∀ (e : Event) (s t : State), runEvent e s = .next t →
    ((∀ b last, e ≠ .rxByte b last) → e ≠ .reset → SameRx s t ∧ SameReadings s t) ∧
    ((∀ r, e ≠ .txBuild r) → e ≠ .reset → t.txN = s.txN ∧ t.txPkt = s.txPkt) ∧
    (∀ b last, e = .rxByte b last → SameTx s t)

/-- R23 (a), (c), with R7: the units share no state, so an RX event and a TX event in either order give the same
outcome, a stop included. -/
def Obligations.RxAndTxEventsCommute : Prop :=
  ∀ (s : State) (b : Byte) (last : Bool) (e : Event) (es : List Event), s.held = [] →
    (e = .txEmit ∨ ∃ r, e = .txBuild r) →
    runSteps 2 { s with events := .rxByte b last :: e :: es } =
      runSteps 2 { s with events := e :: .rxByte b last :: es }

/-- Derived from R7: an enabled event has a step in every state of the invariant. `TxEmit` where it is not enabled has
none (W6; a stop by name, log entry 5). A `TxBuild` where it is not enabled is held and changes no register of the block
(R66): that the model shows the hold as a next state is its choice, log entry 1 (DESIGN CHOICE). -/
def Obligations.EnabledEventsStepAndDisabledOnesChangeNoRegister : Prop :=
  ∀ (s : State) (e : Event), BlockInv s →
    (enabled e s = true → (∀ r, e = .txBuild r → presentable r = true) → ∃ t, runEvent e s = .next t) ∧
    (enabled e s = false → e = .txEmit → runEvent e s = .fault .txEmitNotEnabled) ∧
    (enabled e s = false → ∀ r, e = .txBuild r → presentable r = true →
      ∃ t, runEvent e s = .next t ∧ SameRx s t ∧ SameTx s t)
end

