-- ==== Sys2Proof/Laws/Operands.lean ====
section
/-! SUPPORT. The laws of the field primitives: two bytes and the half word they make, and the integers they stand
for. -/

namespace Sys2Proof

/-- The half word of two bytes. -/
def halfOf (hi lo : Byte) : Half := hi ++ lo

@[simp] theorem toNat_halfOf (hi lo : Byte) : (halfOf hi lo).toNat = hi.toNat * 256 + lo.toNat := by
  show (hi ++ lo : BitVec (8 + 8)).toNat = _
  rw [BitVec.toNat_append, Nat.shiftLeft_eq, Nat.mul_comm, ← Nat.two_pow_add_eq_or_of_lt lo.isLt]

@[simp] theorem memRead1_eq (space : List Byte) (a : Nat) : memRead1 space a = space[a]? := rfl

theorem memRead2_eq (space : List Byte) (a : Nat) :
    memRead2 space a = match space[a]?, space[a + 1]? with
      | some hi, some lo => some (halfOf hi lo)
      | _, _ => none := rfl

/-- The two bytes of a half word, by arithmetic. -/
theorem bytesOfHalf_eq (h : Half) :
    bytesOfHalf h = [BitVec.ofNat 8 (h.toNat / 256), BitVec.ofNat 8 h.toNat] := by
  have h1 : h.extractLsb' 8 8 = BitVec.ofNat 8 (h.toNat / 256) := by
    apply BitVec.eq_of_toNat_eq
    simp [BitVec.extractLsb'_toNat, Nat.shiftRight_eq_div_pow]
  have h2 : h.extractLsb' 0 8 = BitVec.ofNat 8 h.toNat := by
    apply BitVec.eq_of_toNat_eq
    simp [BitVec.extractLsb'_toNat]
  rw [bytesOfHalf, h1, h2]

/-- Writing the half word of two bytes gives the two bytes. -/
@[simp] theorem bytesOfHalf_halfOf (hi lo : Byte) : bytesOfHalf (halfOf hi lo) = [hi, lo] := by
  have h1 := hi.isLt
  have h2 := lo.isLt
  rw [bytesOfHalf_eq, toNat_halfOf]
  congr 1
  · apply BitVec.eq_of_toNat_eq; simp; omega
  · congr 1; apply BitVec.eq_of_toNat_eq; simp; omega

/-- Reading back the two bytes of a half word gives it. -/
@[simp] theorem halfOf_bytes (h : Half) :
    halfOf (BitVec.ofNat 8 (h.toNat / 256)) (BitVec.ofNat 8 h.toNat) = h := by
  have := h.isLt
  apply BitVec.eq_of_toNat_eq
  simp; omega

/-- `sext_16` is the two's complement value. -/
theorem sext16_eq_toInt (h : Half) : sext16 h = h.toInt := by
  have := h.isLt
  rw [BitVec.toInt_eq_toNat_cond, sext16]
  split <;> split <;> omega

/-- A `u8` operand that fits comes back from its byte. -/
theorem zext8_ofInt {v : Int} (h : fitsU8 v = true) : zext8 (BitVec.ofInt 8 v) = v := by
  simp only [fitsU8, decide_eq_true_eq] at h
  simp only [zext8, BitVec.toNat_ofInt]; omega

/-- A `u16` operand that fits comes back from its pattern. -/
theorem zext16_ofInt {v : Int} (h : fitsU16 v = true) : zext16 (BitVec.ofInt 16 v) = v := by
  simp only [fitsU16, decide_eq_true_eq] at h
  simp only [zext16, BitVec.toNat_ofInt]; omega

/-- An `i16` operand that fits comes back from its pattern. -/
theorem sext16_ofInt {v : Int} (h : fitsI16 v = true) : sext16 (BitVec.ofInt 16 v) = v := by
  simp only [fitsI16, decide_eq_true_eq] at h
  simp only [sext16, BitVec.toNat_ofInt]; omega

/-- The integer of a byte fits `u8` and its pattern is the byte. -/
theorem fitsU8_zext8 (b : Byte) : fitsU8 (zext8 b) = true := by
  have := b.isLt
  exact decide_eq_true ⟨by rw [zext8]; omega, by rw [zext8]; omega⟩

@[simp] theorem ofInt_zext8 (b : Byte) : BitVec.ofInt 8 (zext8 b) = b := by
  simp [zext8]

end Sys2Proof
end

