-- ==== Sys2Proof/Laws/Catalog.lean ====
section
/-! SUPPORT. The catalog as rewriting facts: which id is which entry's, and what a half word's two bytes are when a
payload is packed and read back. -/

namespace Sys2Proof

/-- The catalog entry of an id, row by row. -/
theorem Entry.ofId_eq (id : Byte) : Entry.ofId id =
    if id = 254 then some .steerCmd else if id = 252 then some .steerSet
    else if id = 253 then some .steerFb else if id = 239 then some .implData
    else if id = 238 then some .implCfg else if id = 234 then some .implFb
    else if id = 218 then some .imuCfg else if id = 219 then some .imuData
    else if id = 200 then some .helloHost else if id = 202 then some .scanReq
    else if id = 126 then some .helloSteer else if id = 123 then some .helloImpl
    else if id = 121 then some .helloImu else none := by
  revert id; decide +revert

/-- An entry's id is that entry's. -/
theorem Entry.ofId_id (e : Entry) : Entry.ofId e.id = some e := by cases e <;> rfl

/-- Only its own id finds an entry. -/
theorem Entry.id_of_ofId {id : Byte} {e : Entry} (h : Entry.ofId id = some e) : id = e.id := by
  revert id; cases e <;> decide

/-- Classification by an entry's id and a payload length. -/
theorem classify_entry (e : Entry) (n : Nat) :
    classify e.id n = if e.lengthRule.fits n then .entry e else .none := by
  rw [classify, Entry.ofId_id]

/-- A half word put together from its own two bytes, in the width `8 + 8` that appending gives. -/
theorem append_bytes_of_half (h : Half) : (h.extractLsb' 8 8 ++ h.extractLsb' 0 8 : BitVec (8 + 8)) = h := by
  have h1 := halfOf_bytes h
  have h2 := bytesOfHalf_eq h
  simp only [bytesOfHalf, List.cons.injEq] at h2
  rw [h2.1, h2.2.1]; exact h1

/-- The two bytes of an appended pair. -/
theorem bytesOfHalf_append (a b : Byte) : bytesOfHalf (a ++ b : BitVec (8 + 8)) = [a, b] := bytesOfHalf_halfOf a b

end Sys2Proof
end

