-- ==== Sys2Proof/Laws/Checksum.lean ====
section
/-! SUPPORT. The recursion of `sum8`, from which its laws follow. -/

namespace Sys2Proof

/-- The running sum from any start. -/
theorem foldl_add_start (s : List Byte) (a : Byte) :
    s.foldl (fun acc b => acc + b) a = a + sum8 s := by
  induction s generalizing a with
  | nil => simp [sum8]
  | cons b s ih =>
    have h0 : sum8 (b :: s) = b + sum8 s := by
      simp only [sum8, List.foldl_cons]
      rw [ih (0 + b)]
      simp [sum8]
    rw [List.foldl_cons, ih, h0, BitVec.add_assoc]

@[simp] theorem sum8_nil : sum8 [] = 0 := rfl

@[simp] theorem sum8_cons (b : Byte) (s : List Byte) : sum8 (b :: s) = b + sum8 s := by
  show s.foldl (fun acc b => acc + b) (0 + b) = b + sum8 s
  rw [foldl_add_start]; simp

end Sys2Proof
end

