-- ==== Sys2Proof/Laws/Frame.lean ====
section
/-! SUPPORT. The shape of a packet of at least six bytes, and `FRAME.PARSE` on that shape: the one lemma that says
everything the parser does there. -/

namespace Sys2Proof

/-- A packet of at least six bytes: five bytes, a body, a last byte. -/
theorem packet_parts {bs : List Byte} (h : 6 ≤ bs.length) :
    ∃ b0 b1 b2 b3 b4 body t, bs = [b0, b1, b2, b3, b4] ++ body ++ [t] := by
  match bs, h with
  | b0 :: b1 :: b2 :: b3 :: b4 :: b5 :: rest, _ =>
    exact ⟨b0, b1, b2, b3, b4, (b5 :: rest).dropLast, (b5 :: rest).getLast (by simp),
      by simp [List.dropLast_append_getLast]⟩

/-- A shorter packet fails the first test. -/
theorem frameParse_of_length_lt {bs : List Byte} (h : bs.length < 6) : frameParse bs = .error .short := by
  match bs, h with
  | [], _ => rfl
  | [_], _ => rfl
  | [_, _], _ => rfl
  | [_, _, _], _ => rfl
  | [_, _, _, _], _ => rfl
  | [_, _, _, _, _], _ => rfl

/-- The checksum span of a packet given by its parts. -/
theorem crcOfPacket_parts (b0 b1 b2 b3 b4 t : Byte) (body : List Byte) :
    crcOfPacket ([b0, b1, b2, b3, b4] ++ body ++ [t]) = sum8 ([b2, b3, b4] ++ body) := by
  unfold crcOfPacket; congr 1; simp

/-- The three later tests and the record, on a packet given by its parts. -/
theorem frameParse_parts (b0 b1 b2 b3 b4 t : Byte) (body : List Byte) :
    frameParse ([b0, b1, b2, b3, b4] ++ body ++ [t]) =
      if b0 ≠ Config.hdr0 ∨ b1 ≠ Config.hdr1 then .error .header
      else if sum8 ([b2, b3, b4] ++ body) ≠ t then .error .checksum
      else if b4.toNat ≠ body.length then .error .length
      else .ok { src := b2, id := b3, len := b4, pay := body } := by
  obtain ⟨b5, rest, hr⟩ : ∃ b5 rest, body ++ [t] = b5 :: rest := by
    cases body with
    | nil => exact ⟨t, [], rfl⟩
    | cons x l => exact ⟨x, l ++ [t], rfl⟩
  have he : [b0, b1, b2, b3, b4] ++ body ++ [t] = b0 :: b1 :: b2 :: b3 :: b4 :: b5 :: rest := by simp [← hr]
  have hl : (b5 :: rest).getLast (by simp) = t := by simp [← hr]
  have hd : (b5 :: rest).dropLast = body := by simp [← hr]
  have hn : rest.length = body.length := by have := congrArg List.length hr; simpa using this.symm
  have hc := crcOfPacket_parts b0 b1 b2 b3 b4 t body
  rw [he] at hc ⊢
  simp only [frameParse, hl, hd, hc, hn]

/-- The length of a built packet. -/
theorem length_frameBytes (src id : Byte) (pay : List Byte) : (frameBytes src id pay).length = 6 + pay.length := by
  simp [frameBytes]; omega

end Sys2Proof
end

