-- ==== Sys2Proof/Laws/Header.lean ====
section
/-! SUPPORT. The 40-bit header word of R39 byte by byte: masking it, comparing it, and the two bytes a row reads. -/

namespace Sys2Proof

/-- Masking works byte by byte. -/
theorem headerWord_and (a b c d e a' b' c' d' e' : Byte) :
    headerWord a b c d e &&& headerWord a' b' c' d' e'
      = headerWord (a &&& a') (b &&& b') (c &&& c') (d &&& d') (e &&& e') := by
  unfold headerWord
  rw [BitVec.and_append, BitVec.and_append, BitVec.and_append, BitVec.and_append]

/-- All but the last byte of an appended pair. -/
theorem extract_high {n : Nat} (x : BitVec n) (y : Byte) : (x ++ y).extractLsb' 8 n = x := by
  ext i hi
  rw [BitVec.getElem_extractLsb', BitVec.getLsbD_append, if_neg (by omega)]
  simp [hi]

/-- Two header words are equal exactly byte by byte. -/
theorem headerWord_inj (a b c d e a' b' c' d' e' : Byte) :
    headerWord a b c d e = headerWord a' b' c' d' e' ↔ a = a' ∧ b = b' ∧ c = c' ∧ d = d' ∧ e = e' := by
  have cut : ∀ {n : Nat} (x x' : BitVec n) (y y' : Byte), x ++ y = x' ++ y' → x = x' ∧ y = y' := by
    intro n x x' y y' h
    have h0 := congrArg (BitVec.extractLsb' 0 8) h
    have h1 := congrArg (BitVec.extractLsb' 8 n) h
    rw [BitVec.extractLsb'_append_eq_right, BitVec.extractLsb'_append_eq_right] at h0
    rw [extract_high, extract_high] at h1
    exact ⟨h1, h0⟩
  constructor
  · intro h
    obtain ⟨h, he⟩ := cut _ _ _ _ h
    obtain ⟨h, hd⟩ := cut _ _ _ _ h
    obtain ⟨h, hc⟩ := cut _ _ _ _ h
    obtain ⟨ha, hb⟩ := cut _ _ _ _ h
    exact ⟨ha, hb, hc, hd, he⟩
  · rintro ⟨rfl, rfl, rfl, rfl, rfl⟩; rfl

/-- The length byte of a header word. -/
theorem headerWord_length (a b c d e : Byte) : (headerWord a b c d e).extractLsb' 0 8 = e := by
  unfold headerWord; exact BitVec.extractLsb'_append_eq_right

/-- The id byte of a header word. -/
theorem headerWord_id (a b c d e : Byte) : (headerWord a b c d e).extractLsb' 8 8 = d := by
  have h : (headerWord a b c d e).extractLsb' 8 8
      = ((headerWord a b c d e).extractLsb' 8 32).extractLsb' 0 8 := by
    ext i hi
    simp only [BitVec.getElem_extractLsb', BitVec.getLsbD_extractLsb']
    simp; intro; omega
  rw [h]
  unfold headerWord
  have h2 := extract_high (a ++ b ++ c ++ d) e
  exact (congrArg (BitVec.extractLsb' 0 8) h2).trans BitVec.extractLsb'_append_eq_right

end Sys2Proof
end

