-- ==== Sys2Proof/Laws/Memory.lean ====
section
/-! SUPPORT. The laws of the byte buffers: read after write, the canonical form is kept by every operation, and what
a run of consecutive writes leaves. -/

namespace Sys2Proof.Machine

namespace Memory

@[simp] theorem read_nil (x : Nat) : read [] x = none := rfl

@[simp] theorem read_cons (a : Nat) (b : Byte) (m : Memory) (x : Nat) :
    read ((a, b) :: m) x = if a = x then some b else read m x := rfl

/-- Reading after a write, at any index. -/
@[simp] theorem read_write (m : Memory) (x : Nat) (v : Byte) (y : Nat) :
    read (write m x v) y = if y = x then some v else read m y := by
  induction m with
  | nil => simp [write, eq_comm]
  | cons c m ih =>
    obtain ⟨a, b⟩ := c
    simp only [write]
    split
    · by_cases h : y = x
      · simp [h]
      · simp [h, Ne.symm h]
    · split
      · next h =>
        subst h
        by_cases h : y = x
        · simp [h]
        · simp [h, Ne.symm h]
      · next h1 h2 =>
        simp only [read_cons, ih]
        by_cases h3 : a = y
        · subst h3; simp [Ne.symm h2]
        · simp [h3]

/-- The indices a write leaves listed. -/
theorem mem_write {m : Memory} {x : Nat} {v : Byte} {c : Host.Cell} (h : c ∈ write m x v) :
    c = (x, v) ∨ c ∈ m := by
  induction m with
  | nil => simpa [write] using h
  | cons d m ih =>
    obtain ⟨a, b⟩ := d
    simp only [write] at h
    split at h
    · simpa using h
    · split at h
      · simp only [List.mem_cons] at h ⊢; tauto
      · simp only [List.mem_cons] at h ⊢
        rcases h with h | h
        · exact .inr (.inl h)
        · rcases ih h with h | h <;> tauto

/-- A write keeps the canonical form. -/
theorem wf_write {m : Memory} (x : Nat) (v : Byte) (h : wf m) : wf (write m x v) := by
  induction m with
  | nil => simp [write]
  | cons d m ih =>
    obtain ⟨a, b⟩ := d
    obtain ⟨h1, h2⟩ := List.pairwise_cons.mp h
    simp only [write]
    split
    · next hx =>
      refine List.pairwise_cons.mpr ⟨fun c hc => ?_, h⟩
      rcases List.mem_cons.mp hc with rfl | hc
      · exact hx
      · exact lt_trans hx (h1 c hc)
    · split
      · next hx => subst hx; exact List.pairwise_cons.mpr ⟨h1, h2⟩
      · next hx1 hx2 =>
        refine List.pairwise_cons.mpr ⟨fun c hc => ?_, ih h2⟩
        rcases mem_write hc with rfl | hc
        · show a < x; omega
        · exact h1 c hc

/-- An index below every listed one has no value. -/
theorem read_eq_none_of_lt {m : Memory} {x : Nat} (h : ∀ c ∈ m, x < c.1) : read m x = none := by
  induction m with
  | nil => rfl
  | cons d m ih =>
    obtain ⟨a, b⟩ := d
    have ha := h (a, b) (by simp)
    simp only [read_cons]
    rw [if_neg (by simp at ha; omega)]
    exact ih fun c hc => h c (by simp [hc])

/-- In canonical form, writing what an index already holds changes nothing. -/
theorem write_same {m : Memory} {x : Nat} {v : Byte} (h : wf m) (hr : read m x = some v) :
    write m x v = m := by
  induction m with
  | nil => simp at hr
  | cons d m ih =>
    obtain ⟨a, b⟩ := d
    obtain ⟨h1, h2⟩ := List.pairwise_cons.mp h
    simp only [read_cons] at hr
    simp only [write]
    by_cases hax : a = x
    · subst hax; simp only [if_true, Option.some.injEq] at hr; simp [hr]
    · rw [if_neg hax] at hr
      have hlt : a < x := by
        by_contra hc
        rw [read_eq_none_of_lt fun c hc' => lt_of_le_of_lt (by omega) (h1 c hc')] at hr
        simp at hr
      rw [if_neg (by omega), if_neg (Ne.symm hax), ih h2 hr]

/-- Reading after consecutive writes. -/
theorem read_writeFrom (m : Memory) (a : Nat) (bs : List Byte) (y : Nat) :
    read (writeFrom m a bs) y = if h : a ≤ y ∧ y < a + bs.length then some (bs[y - a]'(by omega))
      else read m y := by
  induction bs generalizing m a with
  | nil => simp [writeFrom]
  | cons b bs ih =>
    simp only [writeFrom, ih, read_write, List.length_cons]
    by_cases h1 : a + 1 ≤ y ∧ y < a + 1 + bs.length
    · have h2 : a ≤ y ∧ y < a + (bs.length + 1) := by omega
      obtain ⟨n, hn⟩ : ∃ n, y - a = n + 1 := ⟨y - a - 1, by omega⟩
      have hn' : y - (a + 1) = n := by omega
      simp only [h1, h2, and_self, dite_true, hn, hn', List.getElem_cons_succ]
    · rw [dif_neg h1]
      by_cases h2 : y = a
      · subst h2; simp
      · rw [if_neg h2, dif_neg (by omega)]

/-- Consecutive writes keep the canonical form. -/
theorem wf_writeFrom {m : Memory} (a : Nat) (bs : List Byte) (h : wf m) : wf (writeFrom m a bs) := by
  induction bs generalizing m a with
  | nil => exact h
  | cons b bs ih => exact ih _ (wf_write a b h)

/-- What consecutive writes leave listed. -/
theorem mem_writeFrom {m : Memory} {a : Nat} {bs : List Byte} {c : Host.Cell} (h : c ∈ writeFrom m a bs) :
    c ∈ m ∨ a ≤ c.1 ∧ c.1 < a + bs.length := by
  induction bs generalizing m a with
  | nil => exact .inl h
  | cons b bs ih =>
    rcases ih h with h | h
    · rcases mem_write h with rfl | h
      · right; simp
      · exact .inl h
    · right; simp only [List.length_cons]; omega

/-- Consecutive writes, the last one split off. -/
theorem writeFrom_append (m : Memory) (a : Nat) (bs cs : List Byte) :
    writeFrom m a (bs ++ cs) = writeFrom (writeFrom m a bs) (a + bs.length) cs := by
  induction bs generalizing m a with
  | nil => simp [writeFrom]
  | cons b bs ih => simp only [List.cons_append, writeFrom, ih, List.length_cons]; congr 1; omega

/-- A range has a value exactly when each of its bytes has, and then it lists them. -/
theorem readRange_eq_some_iff (m : Memory) (a n : Nat) (bs : List Byte) :
    readRange m a n = some bs ↔ bs.length = n ∧ ∀ k (h : k < bs.length), read m (a + k) = some (bs[k]'h) := by
  induction n generalizing a bs with
  | zero =>
    cases bs <;> simp [readRange]
  | succ n ih =>
    simp only [readRange]
    cases bs with
    | nil => split <;> simp
    | cons b bs =>
      have key : (∀ k (h : k < (b :: bs).length), read m (a + k) = some ((b :: bs)[k]'h)) ↔
          read m a = some b ∧ ∀ k (h : k < bs.length), read m (a + 1 + k) = some (bs[k]'h) := by
        constructor
        · intro h
          refine ⟨h 0 (by simp), fun k hk => ?_⟩
          have := h (k + 1) (by simp; omega)
          simpa [Nat.add_assoc, Nat.add_comm 1 k] using this
        · rintro ⟨h0, h1⟩ k hk
          cases k with
          | zero => simpa using h0
          | succ k =>
            have := h1 k (by simpa using hk)
            simpa [Nat.add_assoc, Nat.add_comm 1 k] using this
      rw [key]
      split
      · next x xs hx hxs =>
        have hi := (ih (a + 1) xs).mp hxs
        constructor
        · intro h
          obtain ⟨rfl, rfl⟩ : x = b ∧ xs = bs := by simpa using h
          exact ⟨by simp [hi.1], hx, hi.2⟩
        · rintro ⟨hl, hb, hr⟩
          have h2 := (ih (a + 1) bs).mpr ⟨by simpa using hl, hr⟩
          rw [hxs] at h2
          rw [hx] at hb
          simp_all
      · next hno =>
        constructor
        · intro h; simp at h
        · rintro ⟨hl, hb, hr⟩
          have h2 := (ih (a + 1) bs).mpr ⟨by simpa using hl, hr⟩
          exact absurd h2 (hno b bs hb)

/-- A range just written reads back. -/
theorem readRange_writeFrom (m : Memory) (a : Nat) (bs : List Byte) :
    readRange (writeFrom m a bs) a bs.length = some bs := by
  rw [readRange_eq_some_iff]
  refine ⟨rfl, fun k hk => ?_⟩
  rw [read_writeFrom, dif_pos (by omega)]
  simp

/-- In canonical form, writing back a range that is already held changes nothing. -/
theorem writeFrom_same {m : Memory} {a n : Nat} {bs : List Byte} (h : wf m)
    (hr : readRange m a n = some bs) : writeFrom m a bs = m := by
  induction bs generalizing a n with
  | nil => rfl
  | cons b bs ih =>
    obtain ⟨hl, hb⟩ := (readRange_eq_some_iff m a n (b :: bs)).mp hr
    have h0 : read m a = some b := hb 0 (by simp)
    rw [writeFrom, write_same h h0]
    refine ih (n := bs.length) ((readRange_eq_some_iff m (a + 1) bs.length bs).mpr ⟨rfl, fun k hk => ?_⟩)
    have := hb (k + 1) (by simp; omega)
    simpa [Nat.add_assoc, Nat.add_comm 1 k] using this

/-- A range is not changed by a write outside it. -/
theorem readRange_write_of_not_mem {m : Memory} {a n x : Nat} {v : Byte} (h : x < a ∨ a + n ≤ x) :
    readRange (write m x v) a n = readRange m a n := by
  induction n generalizing a with
  | zero => rfl
  | succ n ih =>
    simp only [readRange]
    rw [ih (by omega), read_write, if_neg (by omega)]

end Memory

end Sys2Proof.Machine
end

