-- ==== Sys2Proof/Laws/State.lean ====
section
/-! SUPPORT. One lemma per field per update, each true by `rfl`, so that no later proof unfolds a record update. -/

namespace Sys2Proof.Machine

/-! ### `rxFinish` (R54, R101) -/

@[simp] theorem rxFinish_rxStatus (v : RxStatus) (s : State) : (rxFinish v s).rxStatus = v := rfl
@[simp] theorem rxFinish_rxSrc (v : RxStatus) (s : State) : (rxFinish v s).rxSrc = s.rxSrc := rfl
@[simp] theorem rxFinish_rxId (v : RxStatus) (s : State) : (rxFinish v s).rxId = s.rxId := rfl
@[simp] theorem rxFinish_rxLen (v : RxStatus) (s : State) : (rxFinish v s).rxLen = s.rxLen := rfl
@[simp] theorem rxFinish_rxPay (v : RxStatus) (s : State) : (rxFinish v s).rxPay = s.rxPay := rfl
@[simp] theorem rxFinish_rxPos (v : RxStatus) (s : State) : (rxFinish v s).rxPos = 0 := rfl
@[simp] theorem rxFinish_rxAcc (v : RxStatus) (s : State) : (rxFinish v s).rxAcc = s.rxAcc := rfl
@[simp] theorem rxFinish_rxHdrOk (v : RxStatus) (s : State) : (rxFinish v s).rxHdrOk = s.rxHdrOk := rfl
@[simp] theorem rxFinish_txStatus (v : RxStatus) (s : State) : (rxFinish v s).txStatus = s.txStatus := rfl
@[simp] theorem rxFinish_txN (v : RxStatus) (s : State) : (rxFinish v s).txN = s.txN := rfl
@[simp] theorem rxFinish_txPkt (v : RxStatus) (s : State) : (rxFinish v s).txPkt = s.txPkt := rfl
@[simp] theorem rxFinish_txPos (v : RxStatus) (s : State) : (rxFinish v s).txPos = s.txPos := rfl
@[simp] theorem rxFinish_events (v : RxStatus) (s : State) : (rxFinish v s).events = s.events := rfl
@[simp] theorem rxFinish_held (v : RxStatus) (s : State) : (rxFinish v s).held = s.held := rfl
@[simp] theorem rxFinish_out (v : RxStatus) (s : State) : (rxFinish v s).out = s.out := rfl

/-! ### `txRefuse` (R63, R101) -/

@[simp] theorem txRefuse_rxStatus (s : State) : (txRefuse s).rxStatus = s.rxStatus := rfl
@[simp] theorem txRefuse_rxSrc (s : State) : (txRefuse s).rxSrc = s.rxSrc := rfl
@[simp] theorem txRefuse_rxId (s : State) : (txRefuse s).rxId = s.rxId := rfl
@[simp] theorem txRefuse_rxLen (s : State) : (txRefuse s).rxLen = s.rxLen := rfl
@[simp] theorem txRefuse_rxPay (s : State) : (txRefuse s).rxPay = s.rxPay := rfl
@[simp] theorem txRefuse_rxPos (s : State) : (txRefuse s).rxPos = s.rxPos := rfl
@[simp] theorem txRefuse_rxAcc (s : State) : (txRefuse s).rxAcc = s.rxAcc := rfl
@[simp] theorem txRefuse_rxHdrOk (s : State) : (txRefuse s).rxHdrOk = s.rxHdrOk := rfl
@[simp] theorem txRefuse_txStatus (s : State) : (txRefuse s).txStatus = .errInvalidArgument := rfl
@[simp] theorem txRefuse_txN (s : State) : (txRefuse s).txN = s.txN := rfl
@[simp] theorem txRefuse_txPkt (s : State) : (txRefuse s).txPkt = s.txPkt := rfl
@[simp] theorem txRefuse_txPos (s : State) : (txRefuse s).txPos = s.txPos := rfl
@[simp] theorem txRefuse_events (s : State) : (txRefuse s).events = s.events := rfl
@[simp] theorem txRefuse_held (s : State) : (txRefuse s).held = s.held := rfl
@[simp] theorem txRefuse_out (s : State) : (txRefuse s).out = s.out := rfl

/-! ### `rxAccept` (R51, R54) -/

@[simp] theorem rxAccept_rxStatus (src id : Byte) (pay : List Byte) (s : State) : (rxAccept src id pay s).rxStatus = .ok := rfl
@[simp] theorem rxAccept_rxSrc (src id : Byte) (pay : List Byte) (s : State) : (rxAccept src id pay s).rxSrc = src := rfl
@[simp] theorem rxAccept_rxId (src id : Byte) (pay : List Byte) (s : State) : (rxAccept src id pay s).rxId = id := rfl
@[simp] theorem rxAccept_rxLen (src id : Byte) (pay : List Byte) (s : State) : (rxAccept src id pay s).rxLen = BitVec.ofNat 8 pay.length := rfl
@[simp] theorem rxAccept_rxPay (src id : Byte) (pay : List Byte) (s : State) : (rxAccept src id pay s).rxPay = s.rxPay.writeFrom 0 (pay.take Config.maxPayload) := rfl
@[simp] theorem rxAccept_rxPos (src id : Byte) (pay : List Byte) (s : State) : (rxAccept src id pay s).rxPos = 0 := rfl
@[simp] theorem rxAccept_rxAcc (src id : Byte) (pay : List Byte) (s : State) : (rxAccept src id pay s).rxAcc = s.rxAcc := rfl
@[simp] theorem rxAccept_rxHdrOk (src id : Byte) (pay : List Byte) (s : State) : (rxAccept src id pay s).rxHdrOk = s.rxHdrOk := rfl
@[simp] theorem rxAccept_txStatus (src id : Byte) (pay : List Byte) (s : State) : (rxAccept src id pay s).txStatus = s.txStatus := rfl
@[simp] theorem rxAccept_txN (src id : Byte) (pay : List Byte) (s : State) : (rxAccept src id pay s).txN = s.txN := rfl
@[simp] theorem rxAccept_txPkt (src id : Byte) (pay : List Byte) (s : State) : (rxAccept src id pay s).txPkt = s.txPkt := rfl
@[simp] theorem rxAccept_txPos (src id : Byte) (pay : List Byte) (s : State) : (rxAccept src id pay s).txPos = s.txPos := rfl
@[simp] theorem rxAccept_events (src id : Byte) (pay : List Byte) (s : State) : (rxAccept src id pay s).events = s.events := rfl
@[simp] theorem rxAccept_held (src id : Byte) (pay : List Byte) (s : State) : (rxAccept src id pay s).held = s.held := rfl
@[simp] theorem rxAccept_out (src id : Byte) (pay : List Byte) (s : State) : (rxAccept src id pay s).out = s.out := rfl

/-! ### `resetBlock` (R107) -/

@[simp] theorem resetBlock_rxStatus (s : State) : (resetBlock s).rxStatus = State.reset.rxStatus := rfl
@[simp] theorem resetBlock_rxSrc (s : State) : (resetBlock s).rxSrc = State.reset.rxSrc := rfl
@[simp] theorem resetBlock_rxId (s : State) : (resetBlock s).rxId = State.reset.rxId := rfl
@[simp] theorem resetBlock_rxLen (s : State) : (resetBlock s).rxLen = State.reset.rxLen := rfl
@[simp] theorem resetBlock_rxPay (s : State) : (resetBlock s).rxPay = State.reset.rxPay := rfl
@[simp] theorem resetBlock_rxPos (s : State) : (resetBlock s).rxPos = State.reset.rxPos := rfl
@[simp] theorem resetBlock_rxAcc (s : State) : (resetBlock s).rxAcc = State.reset.rxAcc := rfl
@[simp] theorem resetBlock_rxHdrOk (s : State) : (resetBlock s).rxHdrOk = State.reset.rxHdrOk := rfl
@[simp] theorem resetBlock_txStatus (s : State) : (resetBlock s).txStatus = State.reset.txStatus := rfl
@[simp] theorem resetBlock_txN (s : State) : (resetBlock s).txN = State.reset.txN := rfl
@[simp] theorem resetBlock_txPkt (s : State) : (resetBlock s).txPkt = State.reset.txPkt := rfl
@[simp] theorem resetBlock_txPos (s : State) : (resetBlock s).txPos = State.reset.txPos := rfl
@[simp] theorem resetBlock_events (s : State) : (resetBlock s).events = s.events := rfl
@[simp] theorem resetBlock_held (s : State) : (resetBlock s).held = s.held := rfl
@[simp] theorem resetBlock_out (s : State) : (resetBlock s).out = s.out := rfl

end Sys2Proof.Machine
end

