-- ==== Sys2Proof/Laws/Ops.lean ====
section
/-! SUPPORT. One lemma per shared operation, saying once everything it can do, for the provers to cite instead of
unfolding it. -/

namespace Sys2Proof.Machine

/-! ### The meaning of an instruction -/

/-- Every meaning is the completed reception of the instruction's own frame. -/
theorem exec_eq (i : Instr) (s : State) : exec i s = .next (rxAccept i.source i.id i.payload s) := by
  cases i <;> rfl

/-! ### The position counter -/

theorem posSucc_toNat (p : Pos) : (posSucc p).toNat = min (p.toNat + 1) 511 := by
  have := p.isLt
  by_cases h : p.toNat < Config.posMax
  · rw [posSucc, if_pos h]; simp [Config.posMax] at h; simp [BitVec.toNat_add]; omega
  · rw [posSucc, if_neg h]; simp [Config.posMax] at h; omega

/-! ### A byte inside a packet (R53) -/

@[simp] theorem rxMore_rxPos (b : Byte) (s : State) : (rxMore b s).rxPos = posSucc s.rxPos := rfl

/-- It touches neither the TX unit nor the environment's side. -/
theorem rxMore_frame (b : Byte) (s : State) : SameTx s (rxMore b s) ∧ SameEnv s (rxMore b s) := by
  simp only [rxMore, rxStore, SameTx, SameEnv]
  split_ifs <;> simp

/-- It does not read the event queue. -/
theorem rxMore_events (b : Byte) (s : State) (es : List Event) :
    rxMore b { s with events := es } = { rxMore b s with events := es } := by
  simp only [rxMore, rxStore]
  split_ifs <;> rfl

/-- First byte of a packet. -/
theorem rxMore_first {b : Byte} {s : State} (h : s.rxPos.toNat = 0) :
    rxMore b s = { s with rxStatus := .busy, rxAcc := 0, rxHdrOk := b == Config.hdr0, rxPos := posSucc s.rxPos } := by
  simp [rxMore, h]

/-- Second byte of a packet. -/
theorem rxMore_second {b : Byte} {s : State} (h : s.rxPos.toNat = 1) :
    rxMore b s = { s with rxHdrOk := s.rxHdrOk && b == Config.hdr1, rxPos := posSucc s.rxPos } := by
  simp [rxMore, h]

/-- A payload byte with a place. -/
theorem rxMore_payload {b : Byte} {s : State} (h : 5 ≤ s.rxPos.toNat) (h2 : s.rxPos.toNat ≤ 259) :
    rxMore b s = { s with rxAcc := s.rxAcc + b, rxPay := s.rxPay.write (s.rxPos.toNat - 5) b,
                          rxPos := posSucc s.rxPos } := by
  simp only [rxMore, rxStore]
  rw [if_neg (by omega), if_neg (by omega), if_neg (by omega), if_neg (by omega), if_neg (by omega),
    if_pos ⟨h, h2⟩]

/-- A byte beyond the last place is summed and not stored (R58). -/
theorem rxMore_beyond {b : Byte} {s : State} (h : 260 ≤ s.rxPos.toNat) :
    rxMore b s = { s with rxAcc := s.rxAcc + b, rxPos := posSucc s.rxPos } := by
  simp only [rxMore, rxStore]
  rw [if_neg (by omega), if_neg (by omega), if_neg (by omega), if_neg (by omega), if_neg (by omega),
    if_neg (by omega)]

/-- It keeps the buffer's canonical form. -/
theorem rxMore_wf {b : Byte} {s : State} (h : s.rxPay.wf) : (rxMore b s).rxPay.wf := by
  simp only [rxMore, rxStore]
  split_ifs <;> first | exact h | exact Memory.wf_write _ _ h

/-! ### The TX unit (R63, R64) -/

/-- A build: the packet whole, or the refusal. -/
theorem txBuildFrame_cases (src id : Byte) (pay : List Byte) (s : State) :
    (255 < pay.length ∧ txBuildFrame src id pay s = txRefuse s) ∨
    (pay.length ≤ 255 ∧ txBuildFrame src id pay s =
      { s with txPkt := s.txPkt.writeFrom 0 (frameBytes src id pay),
               txN := BitVec.ofNat 9 (frameBytes src id pay).length, txPos := 0, txStatus := .busy }) := by
  by_cases h : Config.maxPayload < pay.length
  · have hb : frameBuild src id pay = .error .invalidArgument := by rw [frameBuild, if_pos h]
    exact .inl ⟨h, by simp only [txBuildFrame, hb]⟩
  · have hb : frameBuild src id pay = .ok (frameBytes src id pay) := by rw [frameBuild, if_neg h]
    exact .inr ⟨Nat.not_lt.mp h, by simp only [txBuildFrame, hb]⟩

/-- A build changes no RX register and no event. -/
theorem txStart_frame (r : TxRequest) (s : State) : SameRx s (txStart r s) ∧ SameEnv s (txStart r s) := by
  have h1 : ∀ src id pay, SameRx s (txBuildFrame src id pay s) ∧ SameEnv s (txBuildFrame src id pay s) := by
    intro src id pay
    rcases txBuildFrame_cases src id pay s with ⟨-, h⟩ | ⟨-, h⟩ <;> rw [h] <;> simp [SameRx, SameEnv]
  cases r with
  | frame src id pay => exact h1 src id pay
  | typed r =>
    simp only [txStart]
    split
    · exact h1 _ _ _
    · simp [SameRx, SameEnv]

/-- A byte handed out. -/
theorem txEmit_next {s : State} {b : Byte} (h1 : s.txStatus = .busy) (h2 : s.txPos.toNat < s.txN.toNat)
    (h3 : s.txPkt.read s.txPos.toNat = some b) :
    txEmit s = .next
      { s with out := s.out ++ [{ byte := b, last := decide (s.txPos.toNat = s.txN.toNat - 1) }]
               txPos := s.txPos + 1
               txStatus := if decide (s.txPos.toNat = s.txN.toNat - 1) = true then .done else .busy } := by
  have h : readTxPkt s s.txPos.toNat = .ok b := by simp [readTxPkt, txHasPacket, h1, h2, h3]
  simp only [txEmit, h1, if_true, h]

/-! ### The step -/

/-- Where the queue moves, a step is its first event. -/
theorem step_of_events {s : State} {e : Event} {es : List Event} (hq : QueueMoves s) (he : s.events = e :: es) :
    step s = runEvent e { s with events := es } := by
  unfold step nextMove runQueue
  rcases hq with h | h
  · rw [h, he]
  · cases hh : s.held with
    | nil => rw [he]
    | cons r rest => simp [h, he]

/-- Running in two parts. -/
theorem runSteps_add (m n : Nat) (s : State) :
    runSteps (m + n) s = match runSteps m s with
      | .next t => runSteps n t
      | .fault f => .fault f
      | .refused r => .refused r := by
  induction m generalizing s with
  | zero => simp [runSteps]
  | succ m ih =>
    rw [Nat.add_right_comm]; simp only [runSteps]
    cases step s with
    | next t => simp only [ih]
    | fault => rfl
    | refused => rfl

/-- An empty queue, no held request and no emission in progress: the block waits. -/
theorem step_idle {s : State} (h1 : s.held = []) (h2 : s.events = []) (h3 : s.txStatus ≠ .busy) :
    step s = .next s := by
  simp [step, nextMove, runQueue, h1, h2, h3]

/-- An empty queue and an emission in progress: the TX unit moves by itself, whatever is held (R7, R66). -/
theorem step_emits {s : State} (h1 : s.txStatus = .busy) (h2 : s.events = []) : step s = txEmit s := by
  cases hh : s.held <;> simp [step, nextMove, runQueue, hh, h1, h2]

/-- A held request at a TX unit that is not `BUSY` is the next move (R66, log entry 1). -/
theorem step_held {s : State} {r : TxRequest} {rest : List TxRequest} (h1 : s.txStatus ≠ .busy)
    (h2 : s.held = r :: rest) : step s = .next (txStart r { s with held := rest }) := by
  simp [step, nextMove, h1, h2]

/-- Staging an empty packet changes nothing. -/
theorem stagePacket_nil (s : State) : stagePacket [] s = s := rfl

end Sys2Proof.Machine
end

