-- ==== Sys2Proof/Laws/PerInstr.lean ====
section
/-! SUPPORT. A statement about every instruction as syntax, with one lemma per constructor: a well-formed frame's
payload fits its length byte, and its id and payload length classify as its own kind (R31, R32). -/

namespace Sys2Proof.Laws.PayloadFits

/-- The payload fits the length byte and classifies as the instruction's kind. -/
def Statement (i : Instr) : Prop :=
  i.wellFormed = true → i.payload.length ≤ 255 ∧ classify i.id i.payload.length = i.kind

theorem steerCmd (src : Byte) (speed : Half) (status : Byte) (steerAngle crossTrackError : Half)
    (reserved : List Byte) : Statement (.steerCmd src speed status steerAngle crossTrackError reserved) := by
  intro h
  simp only [Instr.wellFormed, beq_iff_eq] at h
  simp [Instr.payload, Instr.id, Instr.kind, packSteerCmd, bytesOfHalf, classify_entry, Entry.lengthRule,
    LengthRule.fits, h]

theorem steerSet (src : Byte) (raw : List Byte) : Statement (.steerSet src raw) := by
  intro h
  simp only [Instr.wellFormed, beq_iff_eq] at h
  simp [Instr.payload, Instr.id, Instr.kind, classify_entry, Entry.lengthRule, LengthRule.fits, h]

theorem steerFb (src : Byte) (actualAngle : Half) (switchStates statusFlags : Byte) (reserved : List Byte) :
    Statement (.steerFb src actualAngle switchStates statusFlags reserved) := by
  intro h
  simp only [Instr.wellFormed, beq_iff_eq] at h
  simp [Instr.payload, Instr.id, Instr.kind, packSteerFb, bytesOfHalf, classify_entry, Entry.lengthRule,
    LengthRule.fits, h]

theorem implData (src : Byte) (relayLo relayHi : List Byte) (tramline : Byte) (sections : List Byte) :
    Statement (.implData src relayLo relayHi tramline sections) := by
  intro h
  simp only [Instr.wellFormed, Bool.and_eq_true, beq_iff_eq, decide_eq_true_eq] at h
  have hl : (packImplData relayLo relayHi tramline sections).length = 17 + sections.length := by
    simp [packImplData, h]; omega
  simp only [Instr.payload, Instr.id, Instr.kind, hl, classify_entry, Entry.lengthRule, LengthRule.fits]
  exact ⟨by omega, if_pos (decide_eq_true (by omega))⟩

theorem implCfg (src : Byte) (raw : List Byte) : Statement (.implCfg src raw) := by
  intro h
  simp only [Instr.wellFormed, beq_iff_eq] at h
  simp [Instr.payload, Instr.id, Instr.kind, classify_entry, Entry.lengthRule, LengthRule.fits, h]

theorem implFb (src : Byte) (raw : List Byte) : Statement (.implFb src raw) := by
  intro h
  simp only [Instr.wellFormed, beq_iff_eq] at h
  simp [Instr.payload, Instr.id, Instr.kind, classify_entry, Entry.lengthRule, LengthRule.fits, h]

theorem imuCfg (src : Byte) (raw : List Byte) : Statement (.imuCfg src raw) := by
  intro h
  simp only [Instr.wellFormed, beq_iff_eq] at h
  simp [Instr.payload, Instr.id, Instr.kind, classify_entry, Entry.lengthRule, LengthRule.fits, h]

theorem imuData (src : Byte) (roll pitch heading yawRate : Half) (calibrated : Byte) (reserved : List Byte) :
    Statement (.imuData src roll pitch heading yawRate calibrated reserved) := by
  intro h
  simp only [Instr.wellFormed, beq_iff_eq] at h
  simp [Instr.payload, Instr.id, Instr.kind, packImuData, bytesOfHalf, classify_entry, Entry.lengthRule,
    LengthRule.fits, h]

theorem helloHost (src : Byte) (raw : List Byte) : Statement (.helloHost src raw) := by
  intro h
  simp only [Instr.wellFormed, beq_iff_eq] at h
  simp [Instr.payload, Instr.id, Instr.kind, classify_entry, Entry.lengthRule, LengthRule.fits, h]

theorem scanReq (src : Byte) (raw : List Byte) : Statement (.scanReq src raw) := by
  intro h
  simp only [Instr.wellFormed, beq_iff_eq] at h
  simp [Instr.payload, Instr.id, Instr.kind, classify_entry, Entry.lengthRule, LengthRule.fits, h]

theorem helloSteer (src version : Byte) (reserved : List Byte) : Statement (.helloSteer src version reserved) := by
  intro h
  simp only [Instr.wellFormed, beq_iff_eq] at h
  simp [Instr.payload, Instr.id, Instr.kind, packHello, classify_entry, Entry.lengthRule, LengthRule.fits, h]

theorem helloImpl (src version : Byte) (reserved : List Byte) : Statement (.helloImpl src version reserved) := by
  intro h
  simp only [Instr.wellFormed, beq_iff_eq] at h
  simp [Instr.payload, Instr.id, Instr.kind, packHello, classify_entry, Entry.lengthRule, LengthRule.fits, h]

theorem helloImu (src version : Byte) (reserved : List Byte) : Statement (.helloImu src version reserved) := by
  intro h
  simp only [Instr.wellFormed, beq_iff_eq] at h
  simp [Instr.payload, Instr.id, Instr.kind, packHello, classify_entry, Entry.lengthRule, LengthRule.fits, h]

theorem generic (src id : Byte) (pay : List Byte) : Statement (.generic src id pay) := by
  intro h
  simp only [Instr.wellFormed, Bool.and_eq_true, Option.isNone_iff_eq_none, decide_eq_true_eq] at h
  exact ⟨h.2, by simp [Instr.id, Instr.kind, classify, h.1]⟩

end Sys2Proof.Laws.PayloadFits
end

