-- ==== Sys2Proof/Tests/Slice0.lean ====
section
/-! SUPPORT. The model's own tests. Expected results are the vectors V1 to V95 of spec/95_test_vectors.md or follow
by hand from the rule named; each `witness_…` shows concrete values that meet the hypotheses of the statement of the
same name, a clause each where it has several. -/

namespace Sys2Proof.Tests

open Sys2Proof Sys2Proof.Machine Sys2Proof.Claims

/-! ### States to test on -/

/-- After reset, with events to come. -/
def quiet (es : List Event) : State := { State.reset with events := es }

/-- After reset and the given bytes of a packet, with events to come. -/
def midPacket (bs : List Byte) (es : List Event) : State :=
  { bs.foldl (fun t b => rxMore b t) State.reset with events := es }

/-- Frame V36 has been received, frame V74 is being emitted. -/
def both : State :=
  txBuildFrame 0x7B 0xEA [1, 2] (rxFinish .ok (midPacket [0x80, 0x81, 0x7F, 0x64, 2, 0xDE, 0xAD] []))

/-- One byte of a packet has been received, the last build request was refused. -/
def neither : State := txRefuse (midPacket [0x80] [])

/-- The next state, if the step has one. -/
def nextOf (o : Host.Outcome State Fault Refusal) : Option State :=
  match o with
  | .next t => some t
  | .fault _ => none
  | .refused _ => none

/-! ### Well-formedness: an ill-formed term for each check -/

theorem test_wf_steerCmd : (Instr.steerCmd 0 0 0 0 0 [0]).wellFormed = false := by decide
theorem test_wf_steerSet : (Instr.steerSet 0 (List.replicate 11 0)).wellFormed = false := by decide
theorem test_wf_steerFb : (Instr.steerFb 0 0 0 0 [0, 0, 0, 0, 0]).wellFormed = false := by decide
theorem test_wf_implData_lo :
    (Instr.implData 0 (List.replicate 7 0) (List.replicate 8 0) 0 []).wellFormed = false := by decide
theorem test_wf_implData_hi :
    (Instr.implData 0 (List.replicate 8 0) (List.replicate 9 0) 0 []).wellFormed = false := by decide
theorem test_wf_implData_sections :
    (Instr.implData 0 (List.replicate 8 0) (List.replicate 8 0) 0 (List.replicate 239 0)).wellFormed = false := by
  simp [Instr.wellFormed, -List.reduceReplicate]
theorem test_wf_implCfg : (Instr.implCfg 0 [0, 0, 0, 0, 0]).wellFormed = false := by decide
theorem test_wf_implFb : (Instr.implFb 0 [0]).wellFormed = false := by decide
theorem test_wf_imuCfg : (Instr.imuCfg 0 [0, 0, 0]).wellFormed = false := by decide
theorem test_wf_imuData : (Instr.imuData 0 0 0 0 0 0 [0, 0, 0, 0, 0, 0]).wellFormed = false := by decide
theorem test_wf_helloHost : (Instr.helloHost 0 [0, 0]).wellFormed = false := by decide
theorem test_wf_scanReq : (Instr.scanReq 0 [0, 0, 0]).wellFormed = false := by decide
theorem test_wf_helloSteer : (Instr.helloSteer 0 0 [0]).wellFormed = false := by decide
theorem test_wf_helloImpl : (Instr.helloImpl 0 0 [0, 0, 0]).wellFormed = false := by decide
theorem test_wf_helloImu : (Instr.helloImu 0 0 []).wellFormed = false := by decide
theorem test_wf_generic_id : (Instr.generic 0 254 []).wellFormed = false := by decide
theorem test_wf_generic_length : (Instr.generic 0 100 (List.replicate 256 0)).wellFormed = false := by
  simp [Instr.wellFormed, -List.reduceReplicate]

/-! ### Decoding: a frame written out from the spec for every constructor -/

/-- V1. -/
theorem test_decode_steerCmd :
    decode [0x80, 0x81, 0x7F, 0xFE, 0x09, 0x00, 0x69, 0x01, 0x02, 0x0D, 0x00, 0x96, 0x00, 0x00, 0x95]
      = .ok (.steerCmd 0x7F 105 1 525 150 [0, 0]) := by decide
/-- V64. -/
theorem test_decode_steerSet :
    decode [0x80, 0x81, 0x7F, 0xFC, 0x0C, 1, 2, 3, 4, 5, 6, 7, 8, 9, 0x0A, 0x0B, 0x0C, 0xD5]
      = .ok (.steerSet 0x7F [1, 2, 3, 4, 5, 6, 7, 8, 9, 10, 11, 12]) := by decide
/-- V67: reserved bytes that are not zero. -/
theorem test_decode_steerFb :
    decode [0x80, 0x81, 0x7E, 0xFD, 0x08, 0xFE, 0xA2, 0x03, 0x80, 0x01, 0x02, 0x03, 0x04, 0xB0]
      = .ok (.steerFb 0x7E 0xFEA2 3 128 [1, 2, 3, 4]) := by decide
/-- V68. -/
theorem test_decode_implData :
    decode [0x80, 0x81, 0x7F, 0xEF, 0x13, 1, 0, 1, 0, 1, 0, 1, 0, 0, 0, 0, 0, 0, 0, 0, 1, 2, 0xAA, 0x55, 0x87]
      = .ok (.implData 0x7F [1, 0, 1, 0, 1, 0, 1, 0] [0, 0, 0, 0, 0, 0, 0, 1] 2 [0xAA, 0x55]) := by decide
/-- V69: no sections. -/
theorem test_decode_implData_none :
    decode [0x80, 0x81, 0x7F, 0xEF, 0x11, 1, 0, 1, 0, 1, 0, 1, 0, 0, 0, 0, 0, 0, 0, 0, 1, 2, 0x86]
      = .ok (.implData 0x7F [1, 0, 1, 0, 1, 0, 1, 0] [0, 0, 0, 0, 0, 0, 0, 1] 2 []) := by decide
/-- V73. -/
theorem test_decode_implCfg :
    decode [0x80, 0x81, 0x7F, 0xEE, 0x06, 1, 2, 3, 4, 5, 6, 0x88] = .ok (.implCfg 0x7F [1, 2, 3, 4, 5, 6]) := by
  decide
/-- V74. -/
theorem test_decode_implFb :
    decode [0x80, 0x81, 0x7B, 0xEA, 0x02, 1, 2, 0x6A] = .ok (.implFb 0x7B [1, 2]) := by decide
/-- V75. -/
theorem test_decode_imuCfg :
    decode [0x80, 0x81, 0x7F, 0xDA, 0x04, 9, 8, 7, 6, 0x7B] = .ok (.imuCfg 0x7F [9, 8, 7, 6]) := by decide
/-- V76. -/
theorem test_decode_imuData :
    decode [0x80, 0x81, 0x79, 0xDB, 0x10, 0xFF, 0x83, 0x00, 0xC8, 0x8C, 0x9F, 0xFF, 0xF9, 0x01, 0, 0, 0, 0, 0, 0,
        0, 0xD2]
      = .ok (.imuData 0x79 0xFF83 200 35999 0xFFF9 1 [0, 0, 0, 0, 0, 0, 0]) := by decide
/-- V80. -/
theorem test_decode_helloHost :
    decode [0x80, 0x81, 0x7F, 0xC8, 0x03, 0x38, 0, 0, 0x82] = .ok (.helloHost 0x7F [0x38, 0, 0]) := by decide
/-- V81. -/
theorem test_decode_scanReq :
    decode [0x80, 0x81, 0x7F, 0xCA, 0x02, 0xCA, 0xCA, 0xDF] = .ok (.scanReq 0x7F [0xCA, 0xCA]) := by decide
/-- V89 and V90: reserved bytes ignored, the source does not decide. -/
theorem test_decode_helloSteer :
    decode [0x80, 0x81, 0x7E, 0x7E, 0x03, 5, 0xAA, 0xBB, 0x69] = .ok (.helloSteer 0x7E 5 [0xAA, 0xBB]) ∧
    decode [0x80, 0x81, 0x7B, 0x7E, 0x03, 5, 0, 0, 0x01] = .ok (.helloSteer 0x7B 5 [0, 0]) := by decide
/-- V83. -/
theorem test_decode_helloImpl :
    decode [0x80, 0x81, 0x7B, 0x7B, 0x03, 5, 0, 0, 0xFE] = .ok (.helloImpl 0x7B 5 [0, 0]) := by decide
/-- V84. -/
theorem test_decode_helloImu :
    decode [0x80, 0x81, 0x79, 0x79, 0x03, 5, 0, 0, 0xFA] = .ok (.helloImu 0x79 5 [0, 0]) := by decide
/-- V12: header values inside a frame need no escaping. -/
theorem test_decode_generic :
    decode [0x80, 0x81, 0x80, 0x81, 0x02, 0x80, 0x81, 0x04] = .ok (.generic 0x80 0x81 [0x80, 0x81]) := by decide

/-- V35, V18, V26, V27, and V49: the rejections, by name. -/
theorem test_decode_rejects :
    decode [0x80, 0x81, 0x7F, 0xFE, 0x00] = .error (.parse .short) ∧
    decode [0x81, 0x80, 0x7F, 0xFE, 0x00, 0x7D] = .error (.parse .header) ∧
    decode [0x80, 0x81, 0x7E, 0x7E, 3, 5, 0, 0, 4, 0x80, 0x81, 0x7E, 0x7E, 3, 5, 0, 0, 4]
      = .error (.parse .checksum) ∧
    decode [0x80, 0x81, 0x7E, 0x7E, 3, 5, 0, 0, 4, 0x80, 0x81, 0x7E, 0x7E, 3, 5, 0, 0, 0x0D]
      = .error (.parse .length) ∧
    decode [0x80, 0x81, 0x7F, 0x7E, 0x02, 0, 0, 0xFF] = .error .lengthDoesNotFit := by decide

/-- Every row of the opcode table, source bits 0, stands for a frame of its own kind (log entry 7). -/
theorem test_table_words :
    opcodeTable.map (fun r => (decodeTableWord 40 r.matchBits.toNat).map Instr.kind)
      = opcodeTable.map (fun r => some r.kind) := by decide

/-- What the decoder itself says of id 239 with length byte 0 (R34). -/
theorem test_implData_length_zero : decode [0x80, 0x81, 0, 0xEF, 0, 0xEF] = .error .lengthDoesNotFit := by decide

/-- The host's placing of a word: the very next step runs it, from reset. -/
theorem test_withFetchWord :
    (nextOf (step (State.reset.withFetchWord 40 0x8081007E03))).map
      (fun t => (t.rxStatus, rxKind t, t.events)) = some (.ok, .entry .helloSteer, []) := by decide

/-! ### Checksum, typed builds, typed parses -/

/-- V4 and V8. -/
theorem test_sum8 : sum8 [0xFF, 0xFF, 0x01, 0xFF] = 0xFE ∧ sum8 [0x80, 0x80] = 0 ∧ sum8 [0x80, 0x7F] = 0xFF := by
  decide

/-- V57 and V61: the lower extremes, and a negative speed. -/
theorem test_build_steerCmd :
    msgBuild (.steerCmd 0 0 (-32768) (-32768))
      = .ok [0x80, 0x81, 0x7F, 0xFE, 0x09, 0, 0, 0, 0x80, 0, 0x80, 0, 0, 0, 0x86] ∧
    msgBuild (.steerCmd (-1) 1 525 150) = .error .invalidArgument := by decide

/-- V66. -/
theorem test_build_steerFb :
    msgBuild (.steerFb (-350) 3 128)
      = .ok [0x80, 0x81, 0x7E, 0xFD, 0x08, 0xFE, 0xA2, 0x03, 0x80, 0, 0, 0, 0, 0xA6] := by decide

/-- V77 and V79. -/
theorem test_build_imuData :
    msgBuild (.imuData (-32768) 32767 65535 (-32768) 255)
      = .ok [0x80, 0x81, 0x79, 0xDB, 0x10, 0x80, 0, 0x7F, 0xFF, 0xFF, 0xFF, 0x80, 0, 0xFF, 0, 0, 0, 0, 0, 0, 0, 0xDF]
    ∧ msgBuild (.imuData 0 0 (-1) 0 0) = .error .invalidArgument := by decide

/-- V72: a relay bank of seven. -/
theorem test_build_implData :
    msgBuild (.implData [0, 0, 0, 0, 0, 0, 0] [0, 0, 0, 0, 0, 0, 0, 0] 0 []) = .error .invalidArgument := by decide

/-- V85. -/
theorem test_build_helloSteer :
    msgBuild (.helloSteer 255) = .ok [0x80, 0x81, 0x7E, 0x7E, 0x03, 0xFF, 0, 0, 0xFE] ∧
    msgBuild (.helloSteer 256) = .error .invalidArgument := by decide

/-- V59, V94 and V92. -/
theorem test_msgParse :
    msgParse [0x80, 0x81, 0x7F, 0xFE, 0x09, 0, 0, 0, 0xFD, 0xF3, 0xFF, 0x6A, 0, 0, 0xDF]
      = some (.record (.steerCmd 0 0 (-525) (-150))) ∧
    helloParse [0x80, 0x81, 0x7F, 0x64, 0x02, 0xDE, 0xAD, 0x70] = none ∧
    helloParse [0x80, 0x81, 0x7F, 0xC8, 0x03, 0, 0, 0, 0x4A] = none := by decide

/-- V1 as engineering values, and the refusals of U7. -/
theorem test_engineering :
    Field.speed.engineering 105 = some (21 / 2) ∧ Field.steerAngle.engineering 525 = some (21 / 4) ∧
    Field.crossTrackError.engineering 150 = none ∧ Field.yawRate.engineering (-7) = none := by
  norm_num [Field.engineering, Field.conversionScale, Field.scale]

/-! ### The sequencers -/

/-- V15: a one-byte packet, straight to `ERR_SHORT`. -/
theorem test_one_byte_packet :
    (nextOf (step (quiet [.rxByte 0x80 true]))).map (fun t => (t.rxStatus, t.rxPos)) = some (.errShort, 0) := by
  decide

/-- The last byte of P2's corrupted packet: `A5` is not `95`. -/
theorem test_corrupt_packet :
    (nextOf (step (midPacket [0x80, 0x81, 0x7F, 0xFE, 9, 0, 0x69, 1, 2, 0x1D, 0, 0x96, 0, 0] [.rxByte 0x95 true]))).map
      (fun t => (t.rxStatus, t.rxAcc, rxKind t)) = some (.errChecksum, 0xA5, .none) := by decide

/-- P4, steps 3 and 4: the first byte goes out; a request is held and changes no register. -/
theorem test_emit_and_hold :
    (nextOf (step { both with events := [.txEmit] })).map (fun t => (t.out, t.txPos, t.txStatus))
      = some ([{ byte := 0x80, last := false }], 1, .busy) ∧
    (nextOf (step { both with events := [.txBuild (.frame 0x7F 0xCA [0, 0])] })).map
      (fun t => (t.held, t.txStatus, t.txN)) = some ([.frame 0x7F 0xCA [0, 0]], .busy, 8) := by decide

/-- R66 and R7: with nothing left in the queue a `BUSY` unit ends its packet by itself, and then the held request
moves. -/
theorem test_hold_ends :
    (nextOf (step { both with txPos := 7, events := [], held := [.frame 0x7F 0xCA [0, 0]] })).map
      (fun t => (t.out, t.txStatus, t.held))
      = some ([{ byte := 0x6A, last := true }], .done, [.frame 0x7F 0xCA [0, 0]]) ∧
    (nextOf (step { both with txPos := 8, txStatus := .done, events := [], held := [.frame 0x7F 0xCA [0, 0]] })).map
      (fun t => (t.txStatus, t.txPos, t.held)) = some (.busy, 0, []) := by decide

/-- W3: a typed view of another kind. -/
theorem test_other_view : viewEntry .steerFb both = .error (.otherKind .steerFb) := by decide

/-! ### Witnesses: the hypotheses of each statement can be met -/

theorem witness_SumIsByteSumModulo256WithItsLaws :
    ([0xDE, 0xAD] : List Byte).Perm [0xAD, 0xDE] ∧ (0xDE : Byte) ≠ 0xDF := by decide

/-- V35, V16, V20, V22 and V9: one packet for each clause, the shortest where the clauses meet. -/
theorem witness_FrameParseRunsTheFourTestsInOrder :
    ([0x80, 0x81, 0x7F, 0xFE, 0x00] : List Byte).length < 6 ∧
    (let bs : List Byte := [0x81, 0x81, 0, 0, 0, 0];
      6 ≤ bs.length ∧ ¬ (bs[0]? = some 0x80 ∧ bs[1]? = some 0x81)) ∧
    (let bs : List Byte := [0x80, 0x81, 0, 0, 0, 1];
      6 ≤ bs.length ∧ (bs[0]? = some 0x80 ∧ bs[1]? = some 0x81) ∧
        bs[bs.length - 1]? ≠ some (sum8 ((bs.drop 2).take (bs.length - 3)))) ∧
    (let bs : List Byte := [0x80, 0x81, 0, 0, 1, 1];
      6 ≤ bs.length ∧ (bs[0]? = some 0x80 ∧ bs[1]? = some 0x81) ∧
        bs[bs.length - 1]? = some (sum8 ((bs.drop 2).take (bs.length - 3))) ∧
        (bs[4]?).map BitVec.toNat ≠ some (bs.length - 6)) ∧
    (let bs : List Byte := [0x80, 0x81, 0, 0, 0, 0];
      6 ≤ bs.length ∧ (bs[0]? = some 0x80 ∧ bs[1]? = some 0x81) ∧
        bs[bs.length - 1]? = some (sum8 ((bs.drop 2).take (bs.length - 3))) ∧
        (bs[4]?).map BitVec.toNat = some (bs.length - 6)) := by decide

/-- V9, the shortest frame. -/
theorem witness_ParserAcceptsExactlyTheWellFormedPackets :
    frameParse [0x80, 0x81, 0x7F, 0x64, 0, 0xE3] = .ok { src := 0x7F, id := 0x64, len := 0, pay := [] } := by decide

/-- V9 and its last byte. -/
theorem witness_AnyChangedByteIsRejected :
    frameParse [0x80, 0x81, 0x7F, 0x64, 0, 0xE3] = .ok { src := 0x7F, id := 0x64, len := 0, pay := [] } ∧
    5 < ([0x80, 0x81, 0x7F, 0x64, 0, 0xE3] : List Byte).length ∧
    (0xE2 : Byte) ≠ ([0x80, 0x81, 0x7F, 0x64, 0, 0xE3] : List Byte)[5] := by decide

/-- V36 and V37. -/
theorem witness_ReorderedPayloadIsAccepted :
    ([0xDE, 0xAD] : List Byte).length ≤ 255 ∧ ([0xAD, 0xDE] : List Byte).Perm [0xDE, 0xAD] := by decide

/-- V42 and V41: 256 bytes and 255. -/
theorem witness_FrameBuildWritesTheFrameLayout :
    255 < (List.replicate 256 (0xFF : Byte)).length ∧ (List.replicate 255 (0xFF : Byte)).length ≤ 255 ∧
    254 < (List.replicate 255 (0xFF : Byte)).length := by simp [-List.reduceReplicate]

theorem witness_FrameParseAndBuildAreInverse :
    (List.replicate 255 (0xFF : Byte)).length ≤ 255 ∧
    frameParse [0x80, 0x81, 0x7F, 0x64, 0, 0xE3] = .ok { src := 0x7F, id := 0x64, len := 0, pay := [] } := by
  exact ⟨by simp [-List.reduceReplicate], by decide⟩

/-- V9, without its last byte and with one byte more. -/
theorem witness_ShortenedOrExtendedFrameIsRejected :
    frameParse [0x80, 0x81, 0x7F, 0x64, 0, 0xE3] = .ok { src := 0x7F, id := 0x64, len := 0, pay := [] } ∧
    5 < ([0x80, 0x81, 0x7F, 0x64, 0, 0xE3] : List Byte).length ∧ ([0] : List Byte) ≠ [] := by decide

/-- The longest `IMPL_DATA` and an empty generic frame. -/
theorem witness_DecodeOfEncodeIsTheInstruction :
    (Instr.implData 0x7F (List.replicate 8 0) (List.replicate 8 0) 0 (List.replicate 238 1)).wellFormed = true ∧
    (Instr.generic 0x7F 100 []).wellFormed = true := by
  exact ⟨by simp [Instr.wellFormed, -List.reduceReplicate], by decide⟩

theorem witness_EncodeOfDecodeIsThePacket :
    decode [0x80, 0x81, 0x7B, 0xEA, 0x02, 1, 2, 0x6A] = .ok (.implFb 0x7B [1, 2]) := by decide

theorem witness_MsgParseReadsTheDecodedInstruction :
    decode [0x80, 0x81, 0x7B, 0xEA, 0x02, 1, 2, 0x6A] = .ok (.implFb 0x7B [1, 2]) ∧
    decode [0x80, 0x81, 0x7F, 0x7E, 0x02, 0, 0, 0xFF] = .error .lengthDoesNotFit := by decide

/-- V66 for the build; V67, which does not build back, for the converse. -/
theorem witness_TypedRoundTrip :
    msgBuild (.steerFb (-350) 3 128)
      = .ok [0x80, 0x81, 0x7E, 0xFD, 0x08, 0xFE, 0xA2, 0x03, 0x80, 0, 0, 0, 0, 0xA6] ∧
    msgParse [0x80, 0x81, 0x7E, 0xFD, 0x08, 0xFE, 0xA2, 0x03, 0x80, 1, 2, 3, 4, 0xB0]
      = some (.record (.steerFb (-350) 3 128)) := by decide

theorem witness_SourceByteIsWrittenAndNeverTested :
    msgBuild (.implFb [1, 2]) = .ok [0x80, 0x81, 0x7B, 0xEA, 0x02, 1, 2, 0x6A] ∧
    payloadOf (.implFb [1, 2]) = .ok [1, 2] ∧ ([1, 2] : List Byte).length ≤ 255 := by decide

theorem witness_SteerCmdBuildAndParse :
    ((0 ≤ (65535 : Int) ∧ (65535 : Int) ≤ 65535) ∧ (0 ≤ (255 : Int) ∧ (255 : Int) ≤ 255) ∧
      (-32768 ≤ (32767 : Int) ∧ (32767 : Int) ≤ 32767) ∧ (-32768 ≤ (-32768 : Int) ∧ (-32768 : Int) ≤ 32767)) ∧
    ¬ ((0 ≤ (65536 : Int) ∧ (65536 : Int) ≤ 65535) ∧ (0 ≤ (255 : Int) ∧ (255 : Int) ≤ 255) ∧
      (-32768 ≤ (32767 : Int) ∧ (32767 : Int) ≤ 32767) ∧ (-32768 ≤ (-32768 : Int) ∧ (-32768 : Int) ≤ 32767)) ∧
    (let pay : List Byte := List.replicate 8 0; pay.length ≤ 255 ∧ pay.length ≠ 9) := by decide

theorem witness_SteerFbBuildAndParse :
    ((-32768 ≤ (-32768 : Int) ∧ (-32768 : Int) ≤ 32767) ∧ (0 ≤ (255 : Int) ∧ (255 : Int) ≤ 255) ∧
      (0 ≤ (0 : Int) ∧ (0 : Int) ≤ 255)) ∧
    ¬ ((-32768 ≤ (-32769 : Int) ∧ (-32769 : Int) ≤ 32767) ∧ (0 ≤ (255 : Int) ∧ (255 : Int) ≤ 255) ∧
      (0 ≤ (0 : Int) ∧ (0 : Int) ≤ 255)) ∧
    (let pay : List Byte := List.replicate 9 0; pay.length ≤ 255 ∧ pay.length ≠ 8) := by decide

/-- 238 sections and 239; 16 payload bytes. -/
theorem witness_ImplDataBuildAndParse :
    (((List.replicate 8 (255 : Int)).length = 8 ∧ (List.replicate 8 (0 : Int)).length = 8 ∧
        (List.replicate 238 (1 : Int)).length ≤ 238) ∧
      (allU8 (List.replicate 8 255) ∧ allU8 (List.replicate 8 0) ∧ allU8 (List.replicate 238 1) ∧
        0 ≤ (255 : Int) ∧ (255 : Int) ≤ 255)) ∧
    ¬ (((List.replicate 8 (255 : Int)).length = 8 ∧ (List.replicate 8 (0 : Int)).length = 8 ∧
        (List.replicate 239 (1 : Int)).length ≤ 238) ∧
      (allU8 (List.replicate 8 255) ∧ allU8 (List.replicate 8 0) ∧ allU8 (List.replicate 239 1) ∧
        0 ≤ (255 : Int) ∧ (255 : Int) ≤ 255)) ∧
    ((List.replicate 8 (255 : Byte)).length = 8 ∧ (List.replicate 8 (0 : Byte)).length = 8 ∧
      (List.replicate 238 (1 : Byte)).length ≤ 238) ∧
    (List.replicate 16 (0 : Byte)).length < 17 := by
  simp [allU8, -List.reduceReplicate]

theorem witness_ImuDataBuildAndParse :
    ((-32768 ≤ (-32768 : Int) ∧ (-32768 : Int) ≤ 32767) ∧ (-32768 ≤ (32767 : Int) ∧ (32767 : Int) ≤ 32767) ∧
      (0 ≤ (65535 : Int) ∧ (65535 : Int) ≤ 65535) ∧ (-32768 ≤ (-32768 : Int) ∧ (-32768 : Int) ≤ 32767) ∧
      (0 ≤ (255 : Int) ∧ (255 : Int) ≤ 255)) ∧
    ¬ ((-32768 ≤ (0 : Int) ∧ (0 : Int) ≤ 32767) ∧ (-32768 ≤ (0 : Int) ∧ (0 : Int) ≤ 32767) ∧
      (0 ≤ (-1 : Int) ∧ (-1 : Int) ≤ 65535) ∧ (-32768 ≤ (0 : Int) ∧ (0 : Int) ≤ 32767) ∧
      (0 ≤ (0 : Int) ∧ (0 : Int) ≤ 255)) ∧
    (List.replicate 7 (1 : Byte)).length = 7 ∧
    (let pay : List Byte := List.replicate 15 0; pay.length ≤ 255 ∧ pay.length ≠ 16) := by decide

/-- For each of the six lengths: that many bytes, a build with one byte less, a frame with one byte more. -/
theorem witness_OpaqueEntriesBuildAndParse : ∀ n ∈ ([12, 6, 2, 4, 3, 2] : List Nat),
    ((List.replicate n (255 : Int)).length = n ∧ allU8 (List.replicate n 255)) ∧
    ¬ ((List.replicate (n - 1) (255 : Int)).length = n ∧ allU8 (List.replicate (n - 1) 255)) ∧
    (List.replicate n (0 : Byte)).length = n ∧
    (let pay : List Byte := List.replicate (n + 1) 0; pay.length ≤ 255 ∧ pay.length ≠ n) := by
  intro n hn
  have h : 2 ≤ n ∧ n ≤ 12 := by revert n; decide
  refine ⟨⟨List.length_replicate, fun v hv => ?_⟩, fun hc => ?_, List.length_replicate, ?_, ?_⟩
  · rw [List.eq_of_mem_replicate hv]
    decide
  · have := hc.1
    rw [List.length_replicate] at this
    omega
  · simp only [List.length_replicate]
    omega
  · simp only [List.length_replicate]
    omega

theorem witness_ModuleHellosBuildAndParse :
    (0 ≤ (255 : Int) ∧ (255 : Int) ≤ 255) ∧ ¬ (0 ≤ (256 : Int) ∧ (256 : Int) ≤ 255) ∧
    (let pay : List Byte := [0, 0]; pay.length ≤ 255 ∧ pay.length ≠ 3) := by decide

theorem witness_UnknownIdParsesAsGeneric :
    (List.replicate 255 (0 : Byte)).length ≤ 255 ∧
    (255 : Byte) ∉ ([254, 252, 253, 239, 238, 234, 218, 219, 200, 202, 126, 123, 121] : List Byte) := by
  exact ⟨by simp [-List.reduceReplicate], by decide⟩

theorem witness_HelloParseNamesModuleAndVersion : ∀ src version r0 r1 : Byte,
    ([] : List Byte) ≠ frameBytes src 126 [version, r0, r1] ∧ [] ≠ frameBytes src 123 [version, r0, r1] ∧
    [] ≠ frameBytes src 121 [version, r0, r1] := by
  intro src version r0 r1; simp [frameBytes]

theorem witness_ReceptionOfImplData :
    (List.replicate 8 (0 : Byte)).length = 8 ∧ (List.replicate 8 (1 : Byte)).length = 8 ∧
    (List.replicate 238 (1 : Byte)).length ≤ 238 := by simp [-List.reduceReplicate]

theorem witness_ReceptionOfImuData : (List.replicate 7 (0 : Byte)).length = 7 := by decide

theorem witness_ReceptionOfOpaqueEntries :
    (List.replicate 12 (0 : Byte)).length = 12 ∧ (List.replicate 6 (0 : Byte)).length = 6 ∧
    (List.replicate 2 (0 : Byte)).length = 2 ∧ (List.replicate 4 (0 : Byte)).length = 4 ∧
    (List.replicate 3 (0 : Byte)).length = 3 := by decide

theorem witness_ReceptionOfGeneric :
    (List.replicate 255 (0 : Byte)).length ≤ 255 ∧
    (0 : Byte) ∉ ([254, 252, 253, 239, 238, 234, 218, 219, 200, 202, 126, 123, 121] : List Byte) := by
  exact ⟨by simp [-List.reduceReplicate], by decide⟩

/-- V36, all but its last byte received. -/
theorem witness_ReceptionOfTheHeldFrameIsEndOfPacket :
    (midPacket [0x80, 0x81, 0x7F, 0x64, 2, 0xDE, 0xAD] []).rxPay.wf ∧
    heldFrame (midPacket [0x80, 0x81, 0x7F, 0x64, 2, 0xDE, 0xAD] [])
      = some { src := 0x7F, id := 0x64, len := 2, pay := [0xDE, 0xAD] } ∧
    decodeFrame { src := 0x7F, id := 0x64, len := 2, pay := [0xDE, 0xAD] }
      = some (.generic 0x7F 0x64 [0xDE, 0xAD]) := by decide

theorem witness_StepRunsTheDecodedInstruction :
    (let s := midPacket [0x80, 0x81, 0x7F, 0x64, 2, 0xDE, 0xAD] [.rxByte 0x70 true];
      QueueMoves s ∧ s.events = [.rxByte 0x70 true] ∧ rxVerdict 0x70 s = .ok ∧
      heldFrame s = some { src := 0x7F, id := 0x64, len := 2, pay := [0xDE, 0xAD] } ∧
      decodeFrame { src := 0x7F, id := 0x64, len := 2, pay := [0xDE, 0xAD] }
        = some (.generic 0x7F 0x64 [0xDE, 0xAD])) := by decide

/-- The first byte of a packet, and the sixth. -/
theorem witness_ByteInsideAPacketUpdatesTheRegisters :
    (QueueMoves (quiet [.rxByte 0x80 false]) ∧ (quiet [.rxByte 0x80 false]).events = [.rxByte 0x80 false]) ∧
    (let s := midPacket [0x80, 0x81, 0, 0, 0] [.rxByte 7 false];
      QueueMoves s ∧ s.events = [.rxByte 7 false]) := by decide

theorem witness_LastByteWritesStatusAndPositionOnly :
    (let s := midPacket [0x80, 0x81, 0, 0, 0] [.rxByte 0 true];
      QueueMoves s ∧ s.rxPay.wf ∧ s.events = [.rxByte 0 true]) ∧
    (∀ b last, Event.txEmit ≠ .rxByte b last) ∧ Event.txEmit ≠ .reset ∧
    ∃ t, runEvent .txEmit both = .next t ∧ t.txPos = 1 :=
  ⟨by decide, nofun, nofun, _, rfl, by decide⟩

/-- V9 from reset. It also meets the hypotheses of the statements on a whole packet that ask nothing more:
`ReceptionForgetsThePast` and `TypedViewsComputeMsgParse`. -/
theorem witness_ReceivingAPacketComputesFrameParse :
    (let bs : List Byte := [0x80, 0x81, 0x7F, 0x64, 0, 0xE3];
      let s := quiet (packetEvents bs);
      bs ≠ [] ∧ QueueMoves s ∧ s.rxPos = 0 ∧ s.events = packetEvents bs ++ [] ∧
      frameParse bs = .ok { src := 0x7F, id := 0x64, len := 0, pay := [] }) := by decide

/-- The four rejections of `ReceivingAPacketComputesFrameParse`: V15, V32, V34, and V27 shortened. -/
theorem witness_ReceivingAPacketComputesFrameParse_rejected :
    frameParse [0x80] = .error .short ∧ frameParse [0, 0, 0, 0, 0, 0] = .error .header ∧
    frameParse [0x80, 0x81, 0, 0, 5, 1] = .error .checksum ∧
    frameParse [0x80, 0x81, 0, 0, 5, 5] = .error .length := by decide

theorem witness_DeliveredEncodingRunsItsInstruction :
    (let i := Instr.implFb 0x7B [1, 2];
      let s := quiet (packetEvents (encode i));
      i.wellFormed = true ∧ QueueMoves s ∧ s.rxPos = 0 ∧ s.rxPay.wf ∧ s.events = packetEvents (encode i) ++ []) := by
  decide

/-- V9 from reset, and from a state with a result and an emission in progress. -/
theorem witness_ReceptionForgetsThePast :
    (let bs : List Byte := [0x80, 0x81, 0x7F, 0x64, 0, 0xE3];
      let s1 := quiet (packetEvents bs);
      let s2 := { both with events := packetEvents bs };
      bs ≠ [] ∧ QueueMoves s1 ∧ QueueMoves s2 ∧ s1.rxPos = 0 ∧ s2.rxPos = 0 ∧
      s1.events = packetEvents bs ++ [] ∧ s2.events = packetEvents bs ++ []) := by decide

/-- V89, a module hello. -/
theorem witness_TypedViewsComputeMsgParse :
    (let bs : List Byte := [0x80, 0x81, 0x7E, 0x7E, 0x03, 5, 0xAA, 0xBB, 0x69];
      let s := quiet (packetEvents bs);
      bs ≠ [] ∧ QueueMoves s ∧ s.rxPos = 0 ∧ s.events = packetEvents bs ++ []) := by decide

/-- V49. -/
theorem witness_MisfitLengthIsAcceptedWithoutMessage :
    (let pay : List Byte := [0, 0];
      let s := quiet (packetEvents (frameBytes 0x7F 126 pay));
      pay.length ≤ 255 ∧ classify 126 pay.length = .none ∧ QueueMoves s ∧ s.rxPos = 0 ∧
      s.events = packetEvents (frameBytes 0x7F 126 pay) ++ []) := by decide

theorem witness_OverlongPacketIsRejected :
    (let bs : List Byte := List.replicate 262 0;
      let s := quiet (packetEvents bs);
      262 ≤ bs.length ∧ QueueMoves s ∧ s.rxPos = 0 ∧ s.events = packetEvents bs ++ []) := by
  refine ⟨by simp [-List.reduceReplicate], .inl rfl, rfl, ?_⟩
  simp [quiet, -List.reduceReplicate]

/-- 256 and 65535 bytes; 65536 bytes; 0 and 255 bytes: each presented in a state that meets the hypotheses. -/
theorem witness_BuildRequestStoresThePacketOrRefuses :
    (∀ n ∈ ([256, 65535, 65536, 0, 255] : List Nat),
      let pay : List Byte := List.replicate n 0
      let s := quiet [.txBuild (.frame 0x12 0x34 pay)]
      s.held = [] ∧ s.txStatus ≠ .busy ∧ s.events = .txBuild (.frame 0x12 0x34 pay) :: []) ∧
    (∀ n ∈ ([256, 65535] : List Nat), 255 < (List.replicate n (0 : Byte)).length ∧
      (List.replicate n (0 : Byte)).length ≤ 65535) ∧
    65535 < (List.replicate 65536 (0 : Byte)).length ∧
    (∀ n ∈ ([0, 255] : List Nat), (List.replicate n (0 : Byte)).length ≤ 255) := by
  refine ⟨fun n _ => ⟨rfl, (nofun : TxStatus.idle ≠ .busy), rfl⟩, fun n hn => ?_, ?_, fun n hn => ?_⟩
  · rw [List.length_replicate]
    have : n = 256 ∨ n = 65535 := by simpa using hn
    omega
  · rw [List.length_replicate]
    omega
  · rw [List.length_replicate]
    have : n = 0 ∨ n = 255 := by simpa using hn
    omega

/-- V74, and V61; then the operands at and just outside the ends of the port's range. -/
theorem witness_TypedBuildRequestIsTheFrameRequest :
    (let s := quiet [.txBuild (.typed (.implFb [1, 2]))];
      s.held = [] ∧ s.txStatus ≠ .busy ∧ s.events = [.txBuild (.typed (.implFb [1, 2]))] ∧
      msgBuild (.implFb [1, 2]) = .ok [0x80, 0x81, 0x7B, 0xEA, 0x02, 1, 2, 0x6A]) ∧
    (let r : Record := .steerCmd (-1) 1 525 150;
      let s := quiet [.txBuild (.typed r)];
      s.held = [] ∧ s.txStatus ≠ .busy ∧ s.events = [.txBuild (.typed r)] ∧
      msgBuild r = .error .invalidArgument ∧ ∀ v ∈ operandsOf r, -2147483648 ≤ v ∧ v ≤ 2147483647) ∧
    (let r : Record := .steerCmd (-2147483648) 1 2147483647 150;
      msgBuild r = .error .invalidArgument ∧ ∀ v ∈ operandsOf r, -2147483648 ≤ v ∧ v ≤ 2147483647) ∧
    (∀ v ∈ ([-2147483649, 2147483648] : List Int),
      let s := quiet [.txBuild (.typed (.helloSteer v))];
      s.held = [] ∧ s.txStatus ≠ .busy ∧ s.events = [.txBuild (.typed (.helloSteer v))] ∧
      ∃ w ∈ operandsOf (.helloSteer v), w < -2147483648 ∨ 2147483647 < w) := by decide

/-- The first byte, the last byte, the last byte with nothing left in the queue, and no emission in progress. -/
theorem witness_EmitHandsOutOneByte :
    (let s := { both with events := [.txEmit] };
      s.events = [.txEmit] ∧ s.txStatus = .busy ∧ s.txPos.toNat < s.txN.toNat ∧
      s.txPkt.read s.txPos.toNat = some 0x80) ∧
    (let s := { both with txPos := 7, events := [.txEmit] };
      s.events = [.txEmit] ∧ s.txStatus = .busy ∧ s.txPos.toNat < s.txN.toNat ∧
      s.txPkt.read s.txPos.toNat = some 0x6A) ∧
    (let s := { both with txPos := 7, events := [] };
      s.events = [] ∧ s.txStatus = .busy ∧ s.txPos.toNat < s.txN.toNat ∧
      s.txPkt.read s.txPos.toNat = some 0x6A) ∧
    (let s := quiet [.txEmit]; s.events = [.txEmit] ∧ s.txStatus ≠ .busy ∧ s.held = []) := by decide

/-- A request held; a held one that builds; a held one that is refused. -/
theorem witness_BuildRequestIsHeldWhileBusy :
    (let s := { both with events := [.txBuild (.frame 0x7F 0xCA [0, 0])] };
      s.txStatus = .busy ∧ presentable (.frame 0x7F 0xCA [0, 0]) = true ∧
      s.events = [.txBuild (.frame 0x7F 0xCA [0, 0])]) ∧
    (let s := { quiet [] with held := [.frame 0x7F 0xCA [0, 0]] };
      s.txStatus ≠ .busy ∧ s.held = [.frame 0x7F 0xCA [0, 0]] ∧
      requestPacket (.frame 0x7F 0xCA [0, 0]) = .ok [0x80, 0x81, 0x7F, 0xCA, 0x02, 0, 0, 0x4B]) ∧
    (let s := { quiet [] with held := [.typed (.helloSteer (-1))] };
      s.txStatus ≠ .busy ∧ s.held = [.typed (.helloSteer (-1))] ∧
      requestPacket (.typed (.helloSteer (-1))) = .error .invalidArgument) := by decide

/-- A result held and an emission in progress meet the invariant. -/
theorem both_inv (es : List Event) : BlockInv { both with events := es } := by
  refine ⟨⟨?_, ?_, ?_, ?_, ?_⟩, ⟨?_, ?_, ?_, ?_, ?_, ?_⟩⟩
  · show both.rxPay.wf; decide
  · show ∀ c ∈ both.rxPay, c.1 < 255; decide
  · show both.rxStatus = .busy ↔ both.rxPos ≠ 0; decide
  · intro h; exact absurd h (by show ¬ (1 ≤ both.rxPos.toNat); decide)
  · intro _
    refine ⟨[0xDE, 0xAD], ?_, ?_, ?_⟩
    · show both.rxPay.readRange 0 both.rxLen.toNat = _; decide
    · show both.rxAcc = crcOfFrame both.rxSrc both.rxId _; decide
    · show both.rxHdrOk = true; decide
  · show both.txPkt.wf; decide
  · show ∀ c ∈ both.txPkt, c.1 < 261; decide
  · show both.txPos.toNat ≤ 261; decide
  · intro _
    refine ⟨[0x80, 0x81, 0x7B, 0xEA, 0x02, 1, 2, 0x6A], ?_, by decide⟩
    show both.txPkt.readRange 0 both.txN.toNat = _; decide
  · intro _; show both.txPos.toNat < both.txN.toNat; decide
  · intro h; exact absurd h (by show both.txStatus ≠ .done; decide)

/-- A packet in progress and a refused build meet the invariant. -/
theorem neither_inv : BlockInv neither := by
  refine ⟨⟨?_, ?_, ?_, ?_, ?_⟩, ⟨?_, ?_, ?_, ?_, ?_, ?_⟩⟩
  · decide
  · decide
  · decide
  · intro _ _; exact ⟨[], by decide, by decide⟩
  · intro h; exact absurd h (by decide)
  · decide
  · decide
  · decide
  · intro h; exact absurd h (by decide)
  · intro h; exact absurd h (by decide)
  · intro h; exact absurd h (by decide)

theorem witness_EmissionEndsWithin261Events :
    (let s := { both with events := List.replicate 8 .txEmit };
      BlockInv s ∧ s.txStatus = .busy ∧
      s.events = List.replicate (s.txN.toNat - s.txPos.toNat) .txEmit ++ []) ∧
    (let s := { both with events := [] }; BlockInv s ∧ s.txStatus = .busy ∧ s.events = []) ∧
    (let s := { both with events := [.rxByte 0x80 false, .txBuild (.frame 0 0 [])], held := [.frame 0x7F 0xCA [0, 0]] };
      BlockInv s ∧ s.txStatus = .busy ∧ s.held = [.frame 0x7F 0xCA [0, 0]] ∧
      ∀ q, Event.txBuild q ∈ s.events → presentable q = true) := by
  refine ⟨⟨both_inv _, by decide, by decide⟩, ⟨both_inv _, by decide, rfl⟩, ?_, by decide, rfl, ?_⟩
  · exact ⟨⟨(both_inv []).rx.wf, (both_inv []).rx.places, (both_inv []).rx.busy, (both_inv []).rx.acc,
      (both_inv []).rx.result⟩, ⟨(both_inv []).tx.wf, (both_inv []).tx.places, (both_inv []).tx.pos,
      (both_inv []).tx.packet, (both_inv []).tx.busy, (both_inv []).tx.done⟩⟩
  · intro q hq
    simp only [List.mem_cons, Event.txBuild.injEq, reduceCtorEq, false_or, List.not_mem_nil, or_false] at hq
    subst hq
    decide

/-- V40, and V42. -/
theorem witness_BuildAndEmitHandOutTheFrame :
    (let s := quiet (.txBuild (.frame 0x7F 0x64 []) :: (List.replicate 6 .txEmit ++ []));
      s.held = [] ∧ s.txStatus ≠ .busy ∧
      frameBuild 0x7F 0x64 [] = .ok [0x80, 0x81, 0x7F, 0x64, 0, 0xE3] ∧
      s.events = .txBuild (.frame 0x7F 0x64 []) ::
        (List.replicate ([0x80, 0x81, 0x7F, 0x64, 0, 0xE3] : List Byte).length .txEmit ++ [])) ∧
    (frameBuild 0x12 0x34 (List.replicate 256 0) = .error .invalidArgument ∧
      (List.replicate 256 (0 : Byte)).length ≤ 65535) := by
  refine ⟨by decide, ?_, by simp [-List.reduceReplicate]⟩
  rw [frameBuild, if_pos]
  show 255 < (List.replicate 256 (0 : Byte)).length
  simp [-List.reduceReplicate]

theorem witness_BuiltMessageLoopsBack :
    (let bs : List Byte := [0x80, 0x81, 0x7B, 0xEA, 0x02, 1, 2, 0x6A];
      let r : Record := .implFb [1, 2];
      let s := quiet (.txBuild (.typed r) :: (List.replicate bs.length .txEmit ++ (packetEvents bs ++ [])));
      msgBuild r = .ok bs ∧ s.held = [] ∧ s.txStatus ≠ .busy ∧ s.rxPos = 0 ∧
      s.events = .txBuild (.typed r) :: (List.replicate bs.length .txEmit ++ (packetEvents bs ++ []))) := by decide

/-- Each clause's status, in a state of the invariant, with the last place that has a value and the first that has
none. -/
theorem witness_ResultRegistersHaveAValueOnlyWhenValid :
    (BlockInv { both with events := [] } ∧ both.rxStatus = .ok ∧ 1 < both.rxLen.toNat ∧ both.rxLen.toNat ≤ 2 ∧
      (both.txStatus = .busy ∨ both.txStatus = .done) ∧ 7 < both.txN.toNat ∧ both.txN.toNat ≤ 8) ∧
    (BlockInv neither ∧ neither.rxStatus ≠ .ok ∧
      (neither.txStatus = .idle ∨ neither.txStatus = .errInvalidArgument)) :=
  ⟨⟨both_inv _, by decide⟩, neither_inv, by decide⟩

/-- V83 received: its kind, and another. -/
theorem witness_TypedViewHasAValueOnlyForItsKind :
    (let s := rxFinish .ok (midPacket [0x80, 0x81, 0x7B, 0x7B, 3, 5, 0, 0] []);
      BlockInv s ∧ rxKind s = .entry .helloImpl ∧ rxKind s ≠ .entry .helloImu) := by
  refine ⟨⟨⟨by decide, by decide, by decide, ?_, ?_⟩, ⟨by decide, by decide, by decide, ?_, ?_, ?_⟩⟩, by decide, by decide⟩
  · intro h; exact absurd h (by decide)
  · intro _; exact ⟨[5, 0, 0], by decide, by decide, by decide⟩
  · intro h; exact absurd h (by decide)
  · intro h; exact absurd h (by decide)
  · intro h; exact absurd h (by decide)

/-- A final byte too soon; a typed request with a negative speed. -/
theorem witness_ErrorsChangeTheStatusOnly :
    (let s := quiet [.rxByte 7 true];
      QueueMoves s ∧ s.events = [.rxByte 7 true] ∧ rxVerdict 7 s ≠ .ok) ∧
    (let s := quiet [.txBuild (.typed (.steerCmd (-1) 0 0 0))];
      s.held = [] ∧ s.txStatus ≠ .busy ∧ s.events = [.txBuild (.typed (.steerCmd (-1) 0 0 0))] ∧
      presentable (.typed (.steerCmd (-1) 0 0 0)) = true ∧
      requestPacket (.typed (.steerCmd (-1) 0 0 0)) = .error .invalidArgument) := by decide

/-- An event of each kind the clauses speak of. -/
theorem witness_ResultsLastUntilTheUnitsNextInput :
    (∃ t, runEvent .txEmit both = .next t ∧ (∀ b last, Event.txEmit ≠ .rxByte b last) ∧
      (∀ r, Event.txEmit ≠ .txBuild r) ∧ Event.txEmit ≠ .reset) ∧
    (∃ t, runEvent (.rxByte 0x80 false) both = .next t) ∧
    (∃ t, runEvent (.txBuild (.frame 0 0 [])) both = .next t) :=
  ⟨⟨_, rfl, nofun, nofun, nofun⟩, ⟨_, rfl⟩, ⟨_, rfl⟩⟩

/-- A state of the invariant that shows a module hello (V82). -/
theorem witness_HelloParseNamesModuleAndVersion_binding :
    (let bs : List Byte := [0x80, 0x81, 0x7E, 0x7E, 0x03, 5, 0, 0];
      viewHello (rxFinish .ok (midPacket bs [])) = some (.steeringActuator, 5)) ∧ BlockInv neither :=
  ⟨by decide, neither_inv⟩

/-- In the middle of a packet and of an emission. -/
theorem witness_ResetEventActsInAnyState :
    (let s := { both with rxPos := 4, rxStatus := .busy, events := [.reset] };
      QueueMoves s ∧ s.events = [.reset]) := by decide

theorem witness_EveryStepKeepsTheInvariant :
    BlockInv { both with events := [.txEmit] } ∧
    ∃ t, step { both with events := [.txEmit] } = .next t ∧ t.txPos = 1 :=
  ⟨both_inv _, _, rfl, by decide⟩

theorem witness_RxAndTxEventsCommute :
    both.held = [] ∧ ((Event.txEmit = .txEmit) ∨ ∃ r, Event.txEmit = .txBuild r) ∧
    ((Event.txBuild (.frame 0 0 []) = .txEmit) ∨ ∃ r, Event.txBuild (.frame 0 0 []) = .txBuild r) :=
  ⟨by decide, .inl rfl, .inr ⟨_, rfl⟩⟩

/-- An enabled build request; `TxEmit` not enabled; a build request not enabled. -/
theorem witness_EnabledEventsStepAndDisabledOnesChangeNoRegister :
    (BlockInv neither ∧ enabled (.txBuild (.frame 0 0 [])) neither = true ∧ presentable (.frame 0 0 []) = true) ∧
    enabled .txEmit neither = false ∧
    (BlockInv { both with events := [] } ∧
      enabled (.txBuild (.frame 0 0 [])) { both with events := [] } = false) :=
  ⟨⟨neither_inv, by decide⟩, by decide, both_inv _, by decide⟩

end Sys2Proof.Tests
end

section
/-! PROOFS. Decoding keeps what it reads: the operands of a decoded frame are its source, its id and its whole payload
(R32, R40). -/

namespace Sys2Proof

/-- A byte read at an offset is the first byte of what stands from there on. -/
theorem drop_of_memRead1 {pay : List Byte} {a : Nat} {b : Byte} (h : memRead1 pay a = some b) :
    pay.drop a = b :: pay.drop (a + 1) := by
  obtain ⟨hlt, rfl⟩ := List.getElem?_eq_some_iff.mp h
  exact List.drop_eq_getElem_cons hlt

/-- A half word read at an offset is the first two bytes of what stands from there on. -/
theorem drop_of_memRead2 {pay : List Byte} {a : Nat} {w : Half} (h : memRead2 pay a = some w) :
    pay.drop a = bytesOfHalf w ++ pay.drop (a + 2) := by
  rw [memRead2_eq] at h
  split at h
  · next hi lo hhi hlo =>
    cases h
    rw [drop_of_memRead1 hhi, drop_of_memRead1 hlo, bytesOfHalf_halfOf]; rfl
  · cases h

/-- The operands read from a payload at an entry's offsets pack to that payload. -/
theorem decodeEntry_fields {e : Entry} {src : Byte} {pay : List Byte} {i : Instr}
    (h : decodeEntry e src pay = some i) : i.source = src ∧ i.id = e.id ∧ i.payload = pay := by
  cases e
  case steerSet | implCfg | implFb | imuCfg | helloHost | scanReq =>
    cases h; exact ⟨rfl, rfl, rfl⟩
  all_goals
    simp only [decodeEntry, Option.bind_eq_bind, Option.bind_eq_some_iff, Option.pure_def, Option.some.injEq] at h
  case helloSteer | helloImpl | helloImu =>
    obtain ⟨version, h0, rfl⟩ := h
    exact ⟨rfl, rfl, (drop_of_memRead1 h0).symm⟩
  case steerCmd =>
    obtain ⟨speed, h0, status, h2, angle, h3, xte, h5, rfl⟩ := h
    refine ⟨rfl, rfl, ?_⟩
    calc packSteerCmd speed status angle xte (pay.drop 7)
        = bytesOfHalf speed ++ status :: (bytesOfHalf angle ++ (bytesOfHalf xte ++ pay.drop 7)) := by
          simp [packSteerCmd]
      _ = pay.drop 0 := by
          rw [← drop_of_memRead2 h5, ← drop_of_memRead2 h3, ← drop_of_memRead1 h2, ← drop_of_memRead2 h0]
  case steerFb =>
    obtain ⟨angle, h0, switches, h2, flags, h3, rfl⟩ := h
    refine ⟨rfl, rfl, ?_⟩
    calc packSteerFb angle switches flags (pay.drop 4)
        = bytesOfHalf angle ++ switches :: flags :: pay.drop 4 := by simp [packSteerFb]
      _ = pay.drop 0 := by rw [← drop_of_memRead1 h3, ← drop_of_memRead1 h2, ← drop_of_memRead2 h0]
  case implData =>
    obtain ⟨tramline, h16, rfl⟩ := h
    refine ⟨rfl, rfl, ?_⟩
    calc packImplData (pay.take 8) ((pay.drop 8).take 8) tramline (pay.drop 17)
        = pay.take 8 ++ ((pay.drop 8).take 8 ++ (tramline :: pay.drop 17)) := by simp [packImplData]
      _ = pay.take 8 ++ ((pay.drop 8).take 8 ++ (pay.drop 8).drop 8) := by
          rw [← drop_of_memRead1 h16, List.drop_drop]
      _ = pay := by rw [List.take_append_drop, List.take_append_drop]
  case imuData =>
    obtain ⟨roll, h0, pitch, h2, heading, h4, yaw, h6, calibrated, h8, rfl⟩ := h
    refine ⟨rfl, rfl, ?_⟩
    calc packImuData roll pitch heading yaw calibrated (pay.drop 9)
        = bytesOfHalf roll ++ (bytesOfHalf pitch ++ (bytesOfHalf heading ++
            (bytesOfHalf yaw ++ calibrated :: pay.drop 9))) := by simp [packImuData]
      _ = pay.drop 0 := by
          rw [← drop_of_memRead1 h8, ← drop_of_memRead2 h6, ← drop_of_memRead2 h4, ← drop_of_memRead2 h2,
            ← drop_of_memRead2 h0]

/-- The instruction of a frame has the frame's source, id and payload. -/
theorem decodeFrame_fields {f : Frame} {i : Instr} (h : decodeFrame f = some i) :
    i.source = f.src ∧ i.id = f.id ∧ i.payload = f.pay := by
  unfold decodeFrame at h
  split at h
  · cases h
  · cases h; exact ⟨rfl, rfl, rfl⟩
  · next e hk =>
    obtain ⟨hsrc, hid, hpay⟩ := decodeEntry_fields h
    refine ⟨hsrc, hid.trans ?_, hpay⟩
    unfold classify at hk
    split at hk
    · cases hk
    · next e' he' =>
      split at hk
      · cases hk; exact (Entry.id_of_ofId he').symm
      · cases hk

end Sys2Proof
end

section
/-! PROOFS. Further laws of the sums, the buffers and the built packet. -/

namespace Sys2Proof

/-- The sum of a span that grows by one byte (R46). -/
theorem sum8_concat (s : List Byte) (b : Byte) : sum8 (s ++ [b]) = sum8 s + b := by
  simp [sum8, List.foldl_append]

/-- What `FRAME.BUILD` writes is well-formed (R61). -/
theorem wellFormedPacket_frameBytes (src id : Byte) {pay : List Byte} (h : pay.length ≤ 255) :
    WellFormedPacket (frameBytes src id pay) := by
  have hlen := length_frameBytes src id pay
  have hcrc : crcOfPacket (frameBytes src id pay) = crcOfFrame src id pay := crcOfPacket_parts ..
  refine ⟨by omega, rfl, rfl, ?_, ?_⟩
  · rw [hcrc, ← List.getLast?_eq_getElem?, frameBytes, List.getLast?_concat]
  · simp [frameBytes]; omega

/-- A well-formed packet has at most 261 bytes, since its length byte holds the payload's length (R27). -/
theorem length_le_of_wellFormedPacket {bs : List Byte} (h : WellFormedPacket bs) : bs.length ≤ 261 := by
  obtain ⟨-, -, -, -, hlen⟩ := h
  obtain ⟨b, -, hb⟩ := Option.map_eq_some_iff.mp hlen
  have := b.isLt
  omega

namespace Machine.Memory

/-- Each byte of a range that has a value has one. -/
theorem exists_read_of_readRange {m : Memory} {n k : Nat} {bs : List Byte}
    (h : m.readRange 0 n = some bs) (hk : k < n) : ∃ b, m.read k = some b := by
  obtain ⟨hl, hr⟩ := (readRange_eq_some_iff m 0 n bs).mp h
  exact ⟨bs[k], by simpa using hr k (by omega)⟩

/-- Writing the byte behind a range makes the range one byte longer. -/
theorem readRange_write_concat (m : Memory) (a n : Nat) (b : Byte) :
    (m.write (a + n) b).readRange a (n + 1) = (m.readRange a n).map (· ++ [b]) := by
  induction n generalizing a with
  | zero => simp [readRange]
  | succ n ih =>
    have hrest := ih (a + 1)
    rw [Nat.add_right_comm, Nat.add_assoc a n 1] at hrest
    rw [readRange, hrest, read_write, if_neg (by omega), readRange]
    cases m.read a <;> cases m.readRange (a + 1) n <;> rfl

end Machine.Memory
end Sys2Proof
end

section
/-! PROOFS. One lemma per operation of the sequencers: what each event can do, and what it leaves unchanged (R7, R53,
R54, R64). -/

namespace Sys2Proof.Machine

/-! ### The RX unit -/

/-- The source byte. -/
theorem rxMore_source {b : Byte} {s : State} (h : s.rxPos.toNat = 2) :
    rxMore b s = { s with rxAcc := s.rxAcc + b, rxSrc := b, rxPos := posSucc s.rxPos } := by
  simp [rxMore, rxStore, h]

/-- The id byte. -/
theorem rxMore_id {b : Byte} {s : State} (h : s.rxPos.toNat = 3) :
    rxMore b s = { s with rxAcc := s.rxAcc + b, rxId := b, rxPos := posSucc s.rxPos } := by
  simp [rxMore, rxStore, h]

/-- The length byte. -/
theorem rxMore_length {b : Byte} {s : State} (h : s.rxPos.toNat = 4) :
    rxMore b s = { s with rxAcc := s.rxAcc + b, rxLen := b, rxPos := posSucc s.rxPos } := by
  simp [rxMore, rxStore, h]

/-- It writes at most one place of `RX_PAY`, one of the 255 (R8, R58). -/
theorem rxMore_rxPay (b : Byte) (s : State) :
    (rxMore b s).rxPay = s.rxPay ∨ ∃ k < 255, (rxMore b s).rxPay = s.rxPay.write k b := by
  by_cases h : 5 ≤ s.rxPos.toNat ∧ s.rxPos.toNat ≤ 259
  · rw [rxMore_payload h.1 h.2]
    exact .inr ⟨s.rxPos.toNat - 5, by omega, rfl⟩
  · left
    simp only [rxMore, rxStore, if_neg h]
    split_ifs <;> rfl

/-- From the third byte on, every byte is summed (R53). -/
theorem rxMore_rxAcc {b : Byte} {s : State} (h : 2 ≤ s.rxPos.toNat) : (rxMore b s).rxAcc = s.rxAcc + b := by
  simp only [rxMore, rxStore]
  rw [if_neg (by omega), if_neg (by omega)]
  split_ifs <;> rfl

/-- Inside a packet the status is `BUSY` (R53). -/
theorem rxMore_rxStatus {s : State} (b : Byte) (h : s.rxStatus = .busy ↔ s.rxPos ≠ 0) :
    (rxMore b s).rxStatus = .busy := by
  by_cases h0 : s.rxPos = 0
  · rw [rxMore_first (by simp [h0])]
  · rw [← h.mpr h0]
    have h0' : s.rxPos.toNat ≠ 0 := fun hc => h0 (BitVec.eq_of_toNat_eq hc)
    simp only [rxMore, rxStore, if_neg h0']
    split_ifs <;> rfl

/-- While the places suffice, a byte from the third on goes to the end of the span received (R53). -/
theorem spanReceived_rxMore {b : Byte} {s : State} (h : 2 ≤ s.rxPos.toNat) (h' : s.rxPos.toNat ≤ 259) :
    spanReceived (rxMore b s) = (spanReceived s).map (· ++ [b]) := by
  obtain hp | hp | hp | hp :
      s.rxPos.toNat = 2 ∨ s.rxPos.toNat = 3 ∨ s.rxPos.toNat = 4 ∨ 5 ≤ s.rxPos.toNat := by omega
  · rw [rxMore_source hp]; simp [spanReceived, posSucc_toNat, hp, Memory.readRange]
  · rw [rxMore_id hp]; simp [spanReceived, posSucc_toNat, hp, Memory.readRange]
  · rw [rxMore_length hp]; simp [spanReceived, posSucc_toNat, hp, Memory.readRange]
  · have hpos : (posSucc s.rxPos).toNat = s.rxPos.toNat + 1 := by rw [posSucc_toNat]; omega
    have hpay := Memory.readRange_write_concat s.rxPay 0 (s.rxPos.toNat - 5) b
    rw [Nat.zero_add] at hpay
    rw [rxMore_payload hp h']
    simp only [spanReceived, hpos]
    rw [show s.rxPos.toNat + 1 - 5 = s.rxPos.toNat - 5 + 1 by omega, hpay,
      List.take_of_length_le (by simp; omega), List.take_of_length_le (by simp; omega)]
    simp [Function.comp_def]

/-- The final byte of a packet: the reception of the frame held, or the verdict alone. -/
theorem rxLast_cases (b : Byte) (s : State) :
    (∃ f i, rxVerdict b s = .ok ∧ heldFrame s = some f ∧ decodeFrame f = some i ∧
      rxLast b s = .next (rxAccept i.source i.id i.payload s)) ∨
    rxLast b s = .next (rxFinish (rxVerdict b s) s) := by
  by_cases hv : rxVerdict b s = .ok
  · cases hi : (heldFrame s).bind decodeFrame with
    | none => right; simp only [rxLast, hv, if_true, hi]
    | some i =>
      obtain ⟨f, hf, hd⟩ := Option.bind_eq_some_iff.mp hi
      exact .inl ⟨f, i, hv, hf, hd, by simp only [rxLast, hv, if_true, hi, exec_eq]⟩
  · right; rw [rxLast, if_neg hv]

/-- The final byte touches neither the TX unit nor the environment's side. -/
theorem rxLast_frame {b : Byte} {s t : State} (h : rxLast b s = .next t) : SameTx s t ∧ SameEnv s t := by
  rcases rxLast_cases b s with ⟨f, i, -, -, -, hl⟩ | hl <;> rw [hl] at h <;> cases h <;> simp [SameTx, SameEnv]

/-- Receiving the frame that the registers hold already writes nothing but the status and the position. -/
theorem rxAccept_of_heldFrame {f : Frame} {s : State} (hwf : s.rxPay.wf) (h : heldFrame s = some f) :
    rxAccept f.src f.id f.pay s = rxFinish .ok s := by
  obtain ⟨pay, hpay, rfl⟩ := Option.map_eq_some_iff.mp h
  obtain ⟨hlen, -⟩ := (Memory.readRange_eq_some_iff _ _ _ _).mp hpay
  have htake : pay.take Config.maxPayload = pay :=
    List.take_of_length_le (by have := s.rxLen.isLt; simp [Config.maxPayload]; omega)
  have hrx : BitVec.ofNat 8 pay.length = s.rxLen := by rw [hlen]; simp
  simp only [rxAccept, htake, Memory.writeFrom_same hwf hpay, hrx]

/-- In a canonical state the final byte of a packet writes its verdict and nothing else (R54). -/
theorem rxLast_eq (b : Byte) {s : State} (hwf : s.rxPay.wf) :
    rxLast b s = .next (rxFinish (rxVerdict b s) s) := by
  rcases rxLast_cases b s with ⟨f, i, hv, hf, hd, hl⟩ | hl
  · obtain ⟨hsrc, hid, hpay⟩ := decodeFrame_fields hd
    rw [hl, hsrc, hid, hpay, rxAccept_of_heldFrame hwf hf, hv]
  · exact hl

/-- A verdict is never `BUSY`. -/
theorem rxVerdict_ne_busy (b : Byte) (s : State) : rxVerdict b s ≠ .busy := by
  simp only [rxVerdict]
  split_ifs <;> decide

/-- What the four tests found when they all passed (R54). -/
theorem rxVerdict_ok {b : Byte} {s : State} (h : rxVerdict b s = .ok) :
    5 ≤ s.rxPos.toNat ∧ s.rxHdrOk = true ∧ s.rxAcc = b ∧ s.rxLen.toNat = s.rxPos.toNat - 5 := by
  simp only [rxVerdict] at h
  split_ifs at h with hshort hhdr hacc hlen
  exact ⟨by omega, by simpa using hhdr, not_not.mp hacc, not_not.mp hlen⟩

/-! ### The TX unit -/

/-- A build request is the `TxBuild` of some frame, or it is refused (R63, R70). -/
theorem txStart_cases (r : TxRequest) (s : State) :
    txStart r s = txRefuse s ∨ ∃ src id pay, txStart r s = txBuildFrame src id pay s := by
  cases r with
  | frame src id pay => exact .inr ⟨src, id, pay, rfl⟩
  | typed rec =>
    cases hp : payloadOf rec with
    | ok pay => exact .inr ⟨rec.entry.source, rec.entry.id, pay, by simp only [txStart, hp]⟩
    | error e => left; simp only [txStart, hp]

/-- `TxEmit` steps only while `BUSY` with a byte left, and then moves the position and, on the last byte, the status
(R64). -/
theorem txEmit_cases {s t : State} (h : txEmit s = .next t) :
    s.txStatus = .busy ∧ s.txPos.toNat < s.txN.toNat ∧ ∃ o, t =
      { s with out := s.out ++ [o], txPos := s.txPos + 1,
               txStatus := if s.txPos.toNat = s.txN.toNat - 1 then .done else .busy } := by
  unfold txEmit at h
  split at h
  · next hbusy =>
    refine ⟨hbusy, ?_⟩
    split at h
    · cases h
    · next b hb =>
      simp only [decide_eq_true_eq] at h
      cases h
      refine ⟨?_, _, rfl⟩
      by_contra hlt
      rw [readTxPkt, if_neg (fun hc => hlt hc.2)] at hb
      cases hb
  · cases h

/-! ### The step -/

/-- The queue's move is no move at all, the TX unit's own, or an event. -/
theorem runQueue_cases {s t : State} (h : runQueue s = .next t) :
    t = s ∨ txEmit s = .next t ∨ ∃ e es, runEvent e { s with events := es } = .next t := by
  unfold runQueue at h
  split at h
  · split at h
    · exact .inr (.inl h)
    · cases h; exact .inl rfl
  · next e es _ => exact .inr (.inr ⟨e, es, h⟩)

/-- A step is a held request's build or the queue's move. -/
theorem step_cases {s t : State} (h : step s = .next t) :
    (∃ r rest, t = txStart r { s with held := rest }) ∨ runQueue s = .next t := by
  unfold step nextMove at h
  split at h
  · exact .inr h
  · next r rest _ =>
    split at h
    · exact .inr h
    · cases h; exact .inl ⟨r, rest, rfl⟩

end Sys2Proof.Machine
end

section
/-! PROOFS. Each event keeps the invariant of the unit it moves, and each unit's invariant speaks of that unit's
registers only (R7). -/

namespace Sys2Proof.Machine

/-! ### The RX unit's invariant -/

/-- The RX unit's invariant reads the RX registers only. -/
theorem RxInv.of_sameRx {s t : State} (h : RxInv s) (hst : SameRx s t) : RxInv t := by
  obtain ⟨hstatus, hsrc, hid, hlen, hpay, hpos, hacc, hhdr⟩ := hst
  constructor
  · rw [hpay]; exact h.wf
  · rw [hpay]; exact h.places
  · rw [hstatus, hpos]; exact h.busy
  · simp only [spanReceived, hpay, hpos, hsrc, hid, hlen, hacc]; exact h.acc
  · rw [hstatus, hpay, hlen, hacc, hsrc, hid, hhdr]; exact h.result

/-- After a byte inside a packet the running sum is that of the span received (R46, R53). -/
theorem RxInv.acc_rxMore {s : State} (b : Byte) (h : RxInv s) (hp : (rxMore b s).rxPos.toNat ≤ 260) :
    ∃ span, spanReceived (rxMore b s) = some span ∧ (rxMore b s).rxAcc = sum8 span := by
  rw [rxMore_rxPos, posSucc_toNat] at hp
  obtain h0 | h1 | h2 : s.rxPos.toNat = 0 ∨ s.rxPos.toNat = 1 ∨ 2 ≤ s.rxPos.toNat := by omega
  · rw [rxMore_first h0]
    exact ⟨[], by simp [spanReceived, posSucc_toNat, h0, Memory.readRange], rfl⟩
  · obtain ⟨span, hspan, hacc⟩ := h.acc (by omega) (by omega)
    have hnil : span = [] := by simpa [spanReceived, h1, Memory.readRange, eq_comm] using hspan
    rw [rxMore_second h1]
    exact ⟨[], by simp [spanReceived, posSucc_toNat, h1, Memory.readRange], by rw [hacc, hnil]⟩
  · obtain ⟨span, hspan, hacc⟩ := h.acc (by omega) (by omega)
    refine ⟨span ++ [b], ?_, ?_⟩
    · rw [spanReceived_rxMore h2 (by omega), hspan]; rfl
    · rw [rxMore_rxAcc h2, hacc, sum8_concat]

/-- A byte inside a packet keeps the RX unit's invariant. -/
theorem RxInv.rxMore {s : State} (b : Byte) (h : RxInv s) : RxInv (rxMore b s) where
  wf := rxMore_wf h.wf
  places := by
    rcases rxMore_rxPay b s with hpay | ⟨k, hk, hpay⟩
    · rw [hpay]; exact h.places
    · rw [hpay]
      intro c hc
      rcases Memory.mem_write hc with rfl | hc
      · exact hk
      · exact h.places c hc
  busy := by
    have hpos : (Machine.rxMore b s).rxPos ≠ 0 := by
      intro hc
      have := congrArg BitVec.toNat hc
      rw [rxMore_rxPos, posSucc_toNat] at this
      simp at this
    simp only [rxMore_rxStatus b h.busy, true_iff]; exact hpos
  acc := fun _ hp => h.acc_rxMore b hp
  result := fun hok => by rw [rxMore_rxStatus b h.busy] at hok; cases hok

/-- The registers of a packet whose four tests passed hold an accepted frame whole (R15, R54). -/
theorem RxInv.result_of_rxVerdict_ok {b : Byte} {s : State} (h : RxInv s) (hv : rxVerdict b s = .ok) :
    ∃ pay, s.rxPay.readRange 0 s.rxLen.toNat = some pay ∧
      s.rxAcc = crcOfFrame s.rxSrc s.rxId pay ∧ s.rxHdrOk = true := by
  obtain ⟨hpos, hhdr, -, hlen⟩ := rxVerdict_ok hv
  have hbyte := s.rxLen.isLt
  obtain ⟨span, hspan, hacc⟩ := h.acc (by omega) (by omega)
  obtain ⟨pay, hpay, rfl⟩ := Option.map_eq_some_iff.mp hspan
  rw [← hlen] at hpay
  have hn : BitVec.ofNat 8 pay.length = s.rxLen := by
    rw [((Memory.readRange_eq_some_iff _ _ _ _).mp hpay).1]; simp
  refine ⟨pay, hpay, ?_, hhdr⟩
  rw [hacc, crcOfFrame, hn, List.take_of_length_le (by simp; omega)]

/-- The end of a packet keeps the RX unit's invariant. -/
theorem RxInv.rxFinish {s : State} (b : Byte) (h : RxInv s) : RxInv (rxFinish (rxVerdict b s) s) where
  wf := h.wf
  places := h.places
  busy := iff_of_false (rxVerdict_ne_busy b s) (fun hc => hc rfl)
  acc := fun hpos => by simp at hpos
  result := by simpa using fun hv => h.result_of_rxVerdict_ok hv

/-! ### The TX unit's invariant -/

/-- The TX unit's invariant reads the TX registers only. -/
theorem TxInv.of_sameTx {s t : State} (h : TxInv s) (hst : SameTx s t) : TxInv t := by
  obtain ⟨hstatus, hn, hpkt, hpos⟩ := hst
  constructor
  · rw [hpkt]; exact h.wf
  · rw [hpkt]; exact h.places
  · rw [hpos]; exact h.pos
  · rw [txHasPacket, hstatus, hpkt, hn]; exact h.packet
  · rw [hstatus, hpos, hn]; exact h.busy
  · rw [hstatus, hpos, hn]; exact h.done

/-- A packet that is held has at most 261 bytes (R27). -/
theorem TxInv.txN_le {s : State} (h : TxInv s) (hp : txHasPacket s = true) : s.txN.toNat ≤ 261 := by
  obtain ⟨bs, hbs, hwf⟩ := h.packet hp
  rw [← ((Memory.readRange_eq_some_iff _ _ _ _).mp hbs).1]
  exact length_le_of_wellFormedPacket hwf

/-- A refused build keeps the TX unit's invariant: no packet is held then. -/
theorem TxInv.txRefuse {s : State} (h : TxInv s) : TxInv (txRefuse s) where
  wf := h.wf
  places := h.places
  pos := h.pos
  packet := fun hp => by simp [txHasPacket] at hp
  busy := fun hb => by simp at hb
  done := fun hd => by simp at hd

/-- A build keeps the TX unit's invariant: the packet is stored whole from index 0 (R59, R63). -/
theorem TxInv.txBuildFrame {s : State} (src id : Byte) (pay : List Byte) (h : TxInv s) :
    TxInv (txBuildFrame src id pay s) := by
  rcases txBuildFrame_cases src id pay s with ⟨-, hr⟩ | ⟨hle, hr⟩ <;> rw [hr]
  · exact h.txRefuse
  · have hlen := length_frameBytes src id pay
    have hn : (BitVec.ofNat 9 (frameBytes src id pay).length).toNat = (frameBytes src id pay).length := by
      rw [BitVec.toNat_ofNat]; exact Nat.mod_eq_of_lt (by omega)
    exact {
      wf := Memory.wf_writeFrom 0 _ h.wf
      places := fun c hc => by
        rcases Memory.mem_writeFrom hc with hc | ⟨-, hc⟩
        · exact h.places c hc
        · omega
      pos := Nat.zero_le _
      packet := fun _ => ⟨frameBytes src id pay, by rw [hn]; exact Memory.readRange_writeFrom ..,
        wellFormedPacket_frameBytes src id hle⟩
      busy := fun _ => by show 0 < _; rw [hn]; omega
      done := fun hd => by cases hd }

/-- A build request keeps the TX unit's invariant. -/
theorem TxInv.txStart {s : State} (r : TxRequest) (h : TxInv s) : TxInv (txStart r s) := by
  rcases txStart_cases r s with hr | ⟨src, id, pay, hr⟩ <;> rw [hr]
  · exact h.txRefuse
  · exact h.txBuildFrame src id pay

/-- Handing out a byte keeps the TX unit's invariant. -/
theorem TxInv.txEmit {s t : State} (h : TxInv s) (hs : txEmit s = .next t) : TxInv t := by
  obtain ⟨hbusy, hlt, o, rfl⟩ := txEmit_cases hs
  have hp : txHasPacket s = true := by simp [txHasPacket, hbusy]
  have hn := h.txN_le hp
  have hpos : (s.txPos + 1).toNat = s.txPos.toNat + 1 := by bv_omega
  exact {
    wf := h.wf
    places := h.places
    pos := by show (s.txPos + 1).toNat ≤ 261; omega
    packet := fun _ => h.packet hp
    busy := fun hb => by
      show (s.txPos + 1).toNat < s.txN.toNat
      by_cases hlast : s.txPos.toNat = s.txN.toNat - 1
      · simp [hlast] at hb
      · omega
    done := fun hd => by
      show s.txPos + 1 = s.txN
      by_cases hlast : s.txPos.toNat = s.txN.toNat - 1
      · apply BitVec.eq_of_toNat_eq; omega
      · simp [hlast] at hd }

/-- A `TxEmit` that is enabled hands out a byte (R7, R64). -/
theorem TxInv.exists_txEmit {s : State} (h : TxInv s) (hbusy : s.txStatus = .busy) :
    ∃ t, Machine.txEmit s = .next t := by
  obtain ⟨bs, hbs, -⟩ := h.packet (by simp [txHasPacket, hbusy])
  obtain ⟨b, hb⟩ := Memory.exists_read_of_readRange hbs (h.busy hbusy)
  exact ⟨_, txEmit_next hbusy (h.busy hbusy) hb⟩

/-! ### The block's invariant -/

/-- The environment's side of the ports is no register of the block. -/
theorem sameRegs_withEnv (s : State) (es : List Event) (rs : List TxRequest) (os : List TxOut) :
    SameRx s { s with events := es, held := rs, out := os } ∧
    SameTx s { s with events := es, held := rs, out := os } :=
  ⟨⟨rfl, rfl, rfl, rfl, rfl, rfl, rfl, rfl⟩, ⟨rfl, rfl, rfl, rfl⟩⟩

/-- The invariant reads the registers only, not the environment's side of the ports. -/
theorem BlockInv.withEnv {s : State} (h : BlockInv s) (es : List Event) (rs : List TxRequest) (os : List TxOut) :
    BlockInv { s with events := es, held := rs, out := os } :=
  ⟨h.rx.of_sameRx (sameRegs_withEnv s es rs os).1, h.tx.of_sameTx (sameRegs_withEnv s es rs os).2⟩

/-- After `Reset` both units meet their invariants. -/
theorem resetBlock_inv (s : State) : BlockInv (resetBlock s) := by
  constructor
  · constructor <;> simp [State.reset]
  · constructor <;> simp [State.reset, txHasPacket]

/-- A build request keeps the invariant. -/
theorem BlockInv.txStart {s : State} (r : TxRequest) (h : BlockInv s) : BlockInv (txStart r s) :=
  ⟨h.rx.of_sameRx (txStart_frame r s).1, h.tx.txStart r⟩

/-- Handing out a byte changes no RX register, nor the packet. -/
theorem txEmit_frame {s t : State} (h : txEmit s = .next t) :
    SameRx s t ∧ t.txN = s.txN ∧ t.txPkt = s.txPkt := by
  obtain ⟨-, -, o, rfl⟩ := txEmit_cases h
  exact ⟨⟨rfl, rfl, rfl, rfl, rfl, rfl, rfl, rfl⟩, rfl, rfl⟩

/-- Handing out a byte keeps the invariant. -/
theorem BlockInv.txEmit {s t : State} (h : BlockInv s) (hs : txEmit s = .next t) : BlockInv t :=
  ⟨h.rx.of_sameRx (txEmit_frame hs).1, h.tx.txEmit hs⟩

/-- A build request is built or refused at once, or, while the TX unit is `BUSY`, held (R63, R66). -/
theorem runEvent_txBuild_cases {r : TxRequest} {s t : State} (h : runEvent (.txBuild r) s = .next t) :
    t = txStart r s ∨ t = { s with held := s.held ++ [r] } := by
  simp only [runEvent] at h
  split_ifs at h <;> cases h
  · exact .inr rfl
  · exact .inl rfl

/-- Every event keeps the invariant. -/
theorem BlockInv.runEvent {e : Event} {s t : State} (h : BlockInv s) (hs : runEvent e s = .next t) :
    BlockInv t := by
  cases e with
  | rxByte b last =>
    cases last with
    | false => cases hs; exact ⟨h.rx.rxMore b, h.tx.of_sameTx (rxMore_frame b s).1⟩
    | true =>
      have hl : rxLast b s = .next t := hs
      refine ⟨?_, h.tx.of_sameTx (rxLast_frame hl).1⟩
      rw [rxLast_eq b h.rx.wf] at hl
      cases hl; exact h.rx.rxFinish b
  | txBuild r =>
    rcases runEvent_txBuild_cases hs with rfl | rfl
    · exact h.txStart r
    · exact h.withEnv _ _ _
  | txEmit => exact h.txEmit hs
  | reset => cases hs; exact resetBlock_inv s

end Sys2Proof.Machine
end

section
/-! PROOFS. The statements about the state (spec/10_state.md): its codes, its read ports, the lifetimes of results, and
the invariant. -/

namespace Sys2Proof.Machine

open Sys2Proof.Claims

/-! ### Codes (R11, R12) -/

/-- The list of the catalog leaves no entry out. -/
theorem entry_mem_all (e : Entry) : e ∈ Entry.all := by
  cases e <;> decide

/-! ### Read ports (R15) -/

/-- `TX_N` and `TX_PKT` have a value in two of the four states of `TX_STATUS`. -/
theorem txHasPacket_iff (s : State) : txHasPacket s = true ↔ s.txStatus = .busy ∨ s.txStatus = .done := by
  simp [txHasPacket]

/-- Inside the present payload `RX_PAY[k]` reads as the register. -/
theorem readRxPay_eq_ok {s : State} {k : Nat} (h : RxInv s) (hok : s.rxStatus = .ok) (hk : k < s.rxLen.toNat) :
    ∃ b, s.rxPay.read k = some b ∧ readRxPay s k = .ok b := by
  obtain ⟨pay, hpay, -, -⟩ := h.result hok
  obtain ⟨b, hb⟩ := Memory.exists_read_of_readRange hpay hk
  exact ⟨b, hb, by simp only [readRxPay, hok, hk, and_self, if_true, hb]⟩

/-- Without a result, and beyond the payload, `RX_PAY[k]` has no value. -/
theorem readRxPay_eq_error {s : State} {k : Nat} (h : ¬ (s.rxStatus = .ok ∧ k < s.rxLen.toNat)) :
    readRxPay s k = .error (.noValue (.rxPay k)) := if_neg h

/-- Inside the built packet `TX_PKT[k]` reads as the register. -/
theorem readTxPkt_eq_ok {s : State} {k : Nat} (h : TxInv s) (hp : txHasPacket s = true) (hk : k < s.txN.toNat) :
    ∃ b, s.txPkt.read k = some b ∧ readTxPkt s k = .ok b := by
  obtain ⟨bs, hbs, -⟩ := h.packet hp
  obtain ⟨b, hb⟩ := Memory.exists_read_of_readRange hbs hk
  exact ⟨b, hb, by simp only [readTxPkt, hp, hk, and_self, if_true, hb]⟩

/-- Without a packet, and beyond it, `TX_PKT[k]` has no value. -/
theorem readTxPkt_eq_error {s : State} {k : Nat} (h : ¬ (txHasPacket s = true ∧ k < s.txN.toNat)) :
    readTxPkt s k = .error (.noValue (.txPkt k)) := if_neg h

/-! ### What an event leaves unchanged (R7, R112, R113) -/

/-- Every reading of the RX unit is a function of the RX registers. -/
theorem sameReadings_of_sameRx {s t : State} (h : SameRx s t) : SameReadings s t := by
  cases s; cases t
  obtain ⟨hstatus, hsrc, hid, hlen, hpay, -, -, -⟩ := h
  cases hstatus; cases hsrc; cases hid; cases hlen; cases hpay
  exact ⟨rfl, rfl, rfl, rfl, rfl, rfl, fun _ => rfl, rfl, rfl⟩

/-- An `RxByte` writes no TX register. -/
theorem sameTx_of_rxByte {b : Byte} {last : Bool} {s t : State} (h : runEvent (.rxByte b last) s = .next t) :
    SameTx s t := by
  cases last with
  | false => cases h; exact (rxMore_frame b s).1
  | true => exact (rxLast_frame h).1

/-- A build request writes no RX register, whether it is built, refused or held. -/
theorem sameRx_of_txBuild {r : TxRequest} {s t : State} (h : runEvent (.txBuild r) s = .next t) : SameRx s t := by
  rcases runEvent_txBuild_cases h with rfl | rfl
  · exact (txStart_frame r s).1
  · exact (sameRegs_withEnv s s.events (s.held ++ [r]) s.out).1

/-! ### Which events step (R7) -/

/-- A byte always has a step. -/
theorem exists_runEvent_rxByte (b : Byte) (last : Bool) (s : State) : ∃ t, runEvent (.rxByte b last) s = .next t := by
  cases last with
  | false => exact ⟨_, rfl⟩
  | true =>
    rcases rxLast_cases b s with ⟨f, i, -, -, -, h⟩ | h
    · exact ⟨_, h⟩
    · exact ⟨_, h⟩

/-- A presentable build request steps at a TX unit that is not `BUSY` (R63). -/
theorem runEvent_txBuild_of_not_busy {r : TxRequest} {s : State} (hp : presentable r = true)
    (hb : s.txStatus ≠ .busy) : runEvent (.txBuild r) s = .next (txStart r s) := by
  simp only [runEvent, hp, hb, if_true, if_false]

/-- A presentable build request is held while the TX unit is `BUSY` (R66). -/
theorem runEvent_txBuild_of_busy {r : TxRequest} {s : State} (hp : presentable r = true)
    (hb : s.txStatus = .busy) : runEvent (.txBuild r) s = .next { s with held := s.held ++ [r] } := by
  simp only [runEvent, hp, hb, if_true]

end Sys2Proof.Machine

namespace Sys2Proof.Proofs

open Sys2Proof Sys2Proof.Machine Sys2Proof.Claims

/-- Settles O57: whichever unit a step moves, that unit's invariant is kept and the other's registers stay. -/
theorem everyStepKeepsTheInvariant : Obligations.EveryStepKeepsTheInvariant := by
  intro s t h hs
  rcases step_cases hs with ⟨r, rest, rfl⟩ | hq
  · exact (h.withEnv s.events rest s.out).txStart r
  · rcases runQueue_cases hq with rfl | hemit | ⟨e, es, he⟩
    · exact h
    · exact h.txEmit hemit
    · exact (h.withEnv es s.held s.out).runEvent he

/-- Settles O52: the invariant holds a result whole while the status announces it. -/
theorem resultRegistersHaveAValueOnlyWhenValid : Obligations.ResultRegistersHaveAValueOnlyWhenValid := by
  intro s h
  refine ⟨fun hok => ?_, fun hno => ?_, fun hp => ?_, fun hno => ?_⟩
  · exact ⟨if_pos hok, if_pos hok, if_pos hok, fun k hk => readRxPay_eq_ok h.rx hok hk,
      fun k hk => readRxPay_eq_error fun hc => absurd hc.2 (by omega)⟩
  · exact ⟨if_neg hno, if_neg hno, if_neg hno, fun k => readRxPay_eq_error fun hc => hno hc.1⟩
  · have hp' := (txHasPacket_iff s).mpr hp
    exact ⟨if_pos hp', fun k hk => readTxPkt_eq_ok h.tx hp' hk,
      fun k hk => readTxPkt_eq_error fun hc => absurd hc.2 (by omega)⟩
  · have hno' : ¬ txHasPacket s = true := by
      rw [txHasPacket_iff]
      rcases hno with hs | hs <;> simp [hs]
    exact ⟨if_neg hno', fun k => readTxPkt_eq_error fun hc => hno' hc.1⟩

/-- Settles O58, event by event. -/
theorem resultsLastUntilTheUnitsNextInput : Obligations.ResultsLastUntilTheUnitsNextInput := by
  intro e s t h
  cases e with
  | rxByte b last =>
    have htx := sameTx_of_rxByte h
    have ⟨_, hn, hpkt, _⟩ := htx
    exact ⟨fun hc => absurd rfl (hc b last), fun _ _ => ⟨hn, hpkt⟩, fun _ _ _ => htx⟩
  | txBuild r =>
    have hrx := sameRx_of_txBuild h
    exact ⟨fun _ _ => ⟨hrx, sameReadings_of_sameRx hrx⟩, fun hc => absurd rfl (hc r), fun _ _ hc => nomatch hc⟩
  | txEmit =>
    obtain ⟨hrx, htx⟩ := txEmit_frame h
    exact ⟨fun _ _ => ⟨hrx, sameReadings_of_sameRx hrx⟩, fun _ _ => htx, fun _ _ hc => nomatch hc⟩
  | reset => exact ⟨fun _ hc => absurd rfl hc, fun _ hc => absurd rfl hc, fun _ _ hc => nomatch hc⟩

/-- Settles O60, event by event: only `TxEmit` needs the invariant, for the byte it hands out. -/
theorem enabledEventsStepAndDisabledOnesChangeNoRegister :
    Obligations.EnabledEventsStepAndDisabledOnesChangeNoRegister := by
  intro s e h
  refine ⟨fun hen hpres => ?_, ?_, ?_⟩
  · cases e with
    | rxByte b last => exact exists_runEvent_rxByte b last s
    | txBuild r =>
      have hb : s.txStatus ≠ .busy := by simpa [enabled] using hen
      exact ⟨_, runEvent_txBuild_of_not_busy (hpres r rfl) hb⟩
    | txEmit => exact h.tx.exists_txEmit (by simpa [enabled] using hen)
    | reset => exact ⟨_, rfl⟩
  · rintro hdis rfl
    have hb : s.txStatus ≠ .busy := by simpa [enabled] using hdis
    exact if_neg hb
  · rintro hdis r rfl hp
    have hb : s.txStatus = .busy := by simpa [enabled] using hdis
    exact ⟨_, runEvent_txBuild_of_busy hp hb, sameRegs_withEnv s s.events (s.held ++ [r]) s.out⟩

/-- Settles O10: the table row by row, and every kind by its constructor. -/
theorem kindCodesAndIdsAreAsListed : Obligations.KindCodesAndIdsAreAsListed := by
  refine ⟨rfl, rfl, by decide, fun k => ?_, fun k => ?_⟩
  · cases k with
    | none => exact .inl rfl
    | generic => exact .inr (.inl rfl)
    | entry e => exact .inr (.inr ⟨e, entry_mem_all e, rfl⟩)
  · cases k with
    | none => decide
    | generic => decide
    | entry e => cases e <;> decide

/-- Settles O11: the tables row by row, and every status by its constructor. -/
theorem statusCodesNameTheErrorClasses : Obligations.StatusCodesNameTheErrorClasses := by
  refine ⟨by decide, by decide, fun s => ?_, fun s => ?_⟩
  · cases s <;> decide
  · cases s <;> decide

end Sys2Proof.Proofs
end

section
/-! PROOFS. The two units share no state (R7, R23): an RX event reads and writes the RX registers only, a TX event the
TX registers and the TX port only, so in a state put together from two they act side by side and commute. -/

namespace Sys2Proof.Machine

/-- The RX registers of `r` beside the TX unit of `t` with its held requests and outputs, before the queue `es`. -/
def joinUnits (r t : State) (es : List Event) : State :=
  { t with rxStatus := r.rxStatus, rxSrc := r.rxSrc, rxId := r.rxId, rxLen := r.rxLen, rxPay := r.rxPay,
           rxPos := r.rxPos, rxAcc := r.rxAcc, rxHdrOk := r.rxHdrOk, events := es }

/-- The outcome with its next state, if it has one, sent through `f`; a fault or a refusal stays. -/
def mapNext (f : State → State) : Host.Outcome State Fault Refusal → Host.Outcome State Fault Refusal
  | .next s => .next (f s)
  | .fault c => .fault c
  | .refused c => .refused c

@[simp] theorem joinUnits_txStatus (r t : State) (es : List Event) : (joinUnits r t es).txStatus = t.txStatus := rfl
@[simp] theorem joinUnits_txPos (r t : State) (es : List Event) : (joinUnits r t es).txPos = t.txPos := rfl

@[simp] theorem rxVerdict_joinUnits (b : Byte) (r t : State) (es : List Event) :
    rxVerdict b (joinUnits r t es) = rxVerdict b r := rfl

@[simp] theorem heldFrame_joinUnits (r t : State) (es : List Event) :
    heldFrame (joinUnits r t es) = heldFrame r := rfl

@[simp] theorem readTxPkt_joinUnits (r t : State) (es : List Event) (k : Nat) :
    readTxPkt (joinUnits r t es) k = readTxPkt t k := rfl

/-- A state with another queue is its own two units before that queue. -/
theorem joinUnits_self (s : State) (es : List Event) : joinUnits s s es = { s with events := es } := rfl

/-- In joined units a step is the first event of the queue, if the TX side lets the queue move. -/
theorem step_joinUnits_cons (r : State) {t : State} (e : Event) (es : List Event) (hq : QueueMoves t) :
    step (joinUnits r t (e :: es)) = runEvent e (joinUnits r t es) :=
  step_of_events (s := joinUnits r t (e :: es)) hq rfl

/-! ### An RX event in joined units -/

/-- A byte inside a packet acts on the RX registers alone (R53). -/
theorem rxMore_joinUnits (b : Byte) (r t : State) (es : List Event) :
    rxMore b (joinUnits r t es) = joinUnits (rxMore b r) t es := by
  have hpos : (joinUnits r t es).rxPos = r.rxPos := rfl
  simp only [rxMore, rxStore, hpos]
  split_ifs <;> rfl

/-- The final byte of a packet acts on the RX registers alone (R54). -/
theorem rxLast_joinUnits (b : Byte) (r t : State) (es : List Event) :
    rxLast b (joinUnits r t es) = mapNext (joinUnits · t es) (rxLast b r) := by
  simp only [rxLast, rxVerdict_joinUnits, heldFrame_joinUnits, exec_eq]
  split_ifs
  · cases (heldFrame r).bind decodeFrame <;> rfl
  · rfl

/-- An `RxByte` acts on the RX registers alone. -/
theorem runEvent_rxByte_joinUnits (b : Byte) (last : Bool) (r t : State) (es : List Event) :
    runEvent (.rxByte b last) (joinUnits r t es) = mapNext (joinUnits · t es) (runEvent (.rxByte b last) r) := by
  cases last with
  | false => exact congrArg _ (rxMore_joinUnits b r t es)
  | true => exact rxLast_joinUnits b r t es

/-! ### A TX event in joined units -/

/-- The `TxBuild` of a frame acts on the TX registers alone (R63). -/
theorem txBuildFrame_joinUnits (src id : Byte) (pay : List Byte) (r t : State) (es : List Event) :
    txBuildFrame src id pay (joinUnits r t es) = joinUnits r (txBuildFrame src id pay t) es := by
  unfold txBuildFrame
  cases frameBuild src id pay <;> rfl

/-- A build request that starts acts on the TX registers alone (R63, R70). -/
theorem txStart_joinUnits (q : TxRequest) (r t : State) (es : List Event) :
    txStart q (joinUnits r t es) = joinUnits r (txStart q t) es := by
  cases q with
  | frame src id pay => exact txBuildFrame_joinUnits src id pay r t es
  | typed rec =>
    simp only [txStart]
    cases payloadOf rec with
    | ok pay => exact txBuildFrame_joinUnits _ _ pay r t es
    | error _ => rfl

/-- `TxEmit` acts on the TX registers and the outputs alone, its stops included (R64). -/
theorem txEmit_joinUnits (r t : State) (es : List Event) :
    txEmit (joinUnits r t es) = mapNext (joinUnits r · es) (txEmit t) := by
  by_cases hbusy : t.txStatus = .busy
  · simp only [txEmit, joinUnits_txStatus, joinUnits_txPos, readTxPkt_joinUnits, hbusy, if_true]
    cases readTxPkt t t.txPos.toNat <;> rfl
  · simp only [txEmit, joinUnits_txStatus, hbusy, if_false, mapNext]

/-- A build request acts on the TX registers and the held requests alone, its refusal by name included (R63, R66). -/
theorem runEvent_txBuild_joinUnits (q : TxRequest) (r t : State) (es : List Event) :
    runEvent (.txBuild q) (joinUnits r t es) = mapNext (joinUnits r · es) (runEvent (.txBuild q) t) := by
  simp only [runEvent, joinUnits_txStatus, txStart_joinUnits]
  split_ifs <;> rfl

/-- A TX event that finds nothing held leaves the queue to move: a request is held only by a `BUSY` unit (R66). -/
theorem queueMoves_of_txEvent {e : Event} {s t : State} (he : e = .txEmit ∨ ∃ q, e = .txBuild q) (hheld : s.held = [])
    (h : runEvent e s = .next t) : QueueMoves t := by
  rcases he with rfl | ⟨q, rfl⟩
  · obtain ⟨-, -, o, rfl⟩ := txEmit_cases h
    exact .inl hheld
  · simp only [runEvent] at h
    split_ifs at h with hp hbusy <;> cases h
    · exact .inr hbusy
    · obtain ⟨-, -, hh, -⟩ := txStart_frame q s
      exact .inl (hh.trans hheld)

/-! ### Both, in either order -/

section
variable {e : Event} {s u : State} {b : Byte} {last : Bool} (es : List Event)
  (htx : ∀ r t es, runEvent e (joinUnits r t es) = mapNext (joinUnits r · es) (runEvent e t))
  (hu : runEvent (.rxByte b last) s = .next u)
include htx hu

/-- The byte first: it always steps, and then the TX event has its own outcome beside the RX result. -/
theorem runSteps_rxByte_txEvent (hheld : s.held = []) :
    runSteps 2 (joinUnits s s (.rxByte b last :: e :: es)) = mapNext (joinUnits u · es) (runEvent e s) := by
  simp only [runSteps, step_joinUnits_cons s _ _ (.inl hheld), runEvent_rxByte_joinUnits, hu, mapNext,
    step_joinUnits_cons u _ _ (.inl hheld), htx]
  cases runEvent e s <;> rfl

/-- The TX event first: where it stops the run stops, and else the byte steps beside its result. -/
theorem runSteps_txEvent_rxByte (hheld : s.held = []) (hq : ∀ t, runEvent e s = .next t → QueueMoves t) :
    runSteps 2 (joinUnits s s (e :: .rxByte b last :: es)) = mapNext (joinUnits u · es) (runEvent e s) := by
  simp only [runSteps, step_joinUnits_cons s _ _ (.inl hheld), htx]
  cases he : runEvent e s with
  | next t => simp only [mapNext, step_joinUnits_cons s _ _ (hq t he), runEvent_rxByte_joinUnits, hu]
  | fault c => rfl
  | refused c => rfl

end

end Sys2Proof.Machine

namespace Sys2Proof.Proofs

open Sys2Proof Sys2Proof.Machine Sys2Proof.Claims

/-- Settles O59: in either order the outcome is that of the TX event, beside the RX registers the byte leaves. -/
theorem rxAndTxEventsCommute : Obligations.RxAndTxEventsCommute := by
  intro s b last e es hheld he
  obtain ⟨u, hu⟩ := exists_runEvent_rxByte b last s
  have htx : ∀ r t es, runEvent e (joinUnits r t es) = mapNext (joinUnits r · es) (runEvent e t) := by
    rcases he with rfl | ⟨q, rfl⟩
    · exact txEmit_joinUnits
    · exact runEvent_txBuild_joinUnits q
  rw [← joinUnits_self, ← joinUnits_self, runSteps_rxByte_txEvent es htx hu hheld,
    runSteps_txEvent_rxByte es htx hu hheld fun t => queueMoves_of_txEvent he hheld]

end Sys2Proof.Proofs
end

section
/-! PROOFS. The frame level (R27, R47, R59): what the parser accepts is what the builder writes. -/

namespace Sys2Proof

/-- `crc_of_packet` sums the bytes `2 .. n-2` (R42). -/
theorem crcOfPacket_eq (bs : List Byte) : crcOfPacket bs = sum8 ((bs.drop 2).take (bs.length - 3)) := by
  rw [crcOfPacket, List.drop_take]; rfl

/-- The length byte of a payload that fits it counts the payload. -/
theorem toNat_lengthByte {n : Nat} (h : n ≤ 255) : (BitVec.ofNat 8 n).toNat = n :=
  Nat.mod_eq_of_lt (by omega)

/-- The parser gives back the fields of a built packet. -/
theorem frameParse_frameBytes (src id : Byte) {pay : List Byte} (h : pay.length ≤ 255) :
    frameParse (frameBytes src id pay) =
      .ok { src := src, id := id, len := BitVec.ofNat 8 pay.length, pay := pay } := by
  rw [frameBytes, frameParse_parts]
  simp [crcOfFrame, toNat_lengthByte h, -BitVec.toNat_ofNat]

/-- A frame is parsed from its own built packet and from no other (R47, R59). -/
theorem frameParse_eq_ok_iff {bs : List Byte} {f : Frame} : frameParse bs = .ok f ↔
    f.pay.length ≤ 255 ∧ f.len = BitVec.ofNat 8 f.pay.length ∧ bs = frameBytes f.src f.id f.pay := by
  constructor
  · intro h
    have hlong : 6 ≤ bs.length := by
      by_contra hshort
      rw [frameParse_of_length_lt (by omega)] at h; cases h
    obtain ⟨b0, b1, src, id, len, pay, t, rfl⟩ := packet_parts hlong
    rw [frameParse_parts] at h
    split_ifs at h with hhdr hcrc hlen
    cases h
    obtain ⟨rfl, rfl⟩ : b0 = Config.hdr0 ∧ b1 = Config.hdr1 := by simpa using hhdr
    have hn : len = BitVec.ofNat 8 pay.length := by rw [← not_not.mp hlen]; simp
    have hbyte := len.isLt
    refine ⟨by dsimp only; omega, hn, ?_⟩
    rw [frameBytes, crcOfFrame, ← hn, not_not.mp hcrc]
  · rintro ⟨hle, hlen, rfl⟩
    rw [frameParse_frameBytes _ _ hle, ← hlen]

/-- The parser accepts exactly the well-formed packets (R27, R47). -/
theorem exists_frameParse_iff (bs : List Byte) : (∃ f, frameParse bs = .ok f) ↔ WellFormedPacket bs := by
  constructor
  · rintro ⟨f, h⟩
    obtain ⟨hle, -, rfl⟩ := frameParse_eq_ok_iff.mp h
    exact wellFormedPacket_frameBytes f.src f.id hle
  · rintro ⟨hlong, h0, h1, hcrc, hlen⟩
    obtain ⟨b0, b1, src, id, len, pay, t, rfl⟩ := packet_parts hlong
    obtain rfl : b0 = Config.hdr0 := by simpa using h0
    obtain rfl : b1 = Config.hdr1 := by simpa using h1
    rw [← List.getLast?_eq_getElem?, List.getLast?_concat, crcOfPacket_parts] at hcrc
    have hn : len.toNat = pay.length := by simpa using hlen
    rw [frameParse_parts, if_neg (by simp), if_neg (by simpa using hcrc.symm), if_neg (by simp [hn])]
    exact ⟨_, rfl⟩

end Sys2Proof
end

section
/-! PROOFS. Classification (R32, R33) and the catalog's rows of the opcode table (R39). -/

namespace Sys2Proof

/-- Outside the catalog stand the ids that none of the 13 rows names (R33). -/
theorem ofId_eq_none_iff (id : Byte) : Entry.ofId id = none ↔
    id ∉ ([254, 252, 253, 239, 238, 234, 218, 219, 200, 202, 126, 123, 121] : List Byte) := by
  change Entry.ofId id = none ↔ id ∉ Entry.all.map Entry.id
  simp [Entry.ofId]

/-- An id outside the catalog is `GENERIC` at every length (R33). -/
theorem classify_of_ofId_eq_none {id : Byte} (h : Entry.ofId id = none) (n : Nat) : classify id n = .generic := by
  rw [classify, h]

/-- A kind of the catalog is classified by its own id and a length that fits. -/
theorem classify_eq_entry_iff {id : Byte} {n : Nat} {e : Entry} :
    classify id n = .entry e ↔ id = e.id ∧ e.lengthRule.fits n = true := by
  constructor
  · intro h
    cases ho : Entry.ofId id with
    | none => rw [classify_of_ofId_eq_none ho] at h; cases h
    | some e' =>
      obtain rfl := Entry.id_of_ofId ho
      rw [classify_entry] at h
      split_ifs at h with hfits
      cases h; exact ⟨rfl, hfits⟩
  · rintro ⟨rfl, hfits⟩
    rw [classify_entry, if_pos hfits]

/-- Only an id outside the catalog is `GENERIC`. -/
theorem ofId_eq_none_of_classify {id : Byte} {n : Nat} (h : classify id n = .generic) : Entry.ofId id = none := by
  cases ho : Entry.ofId id with
  | none => rfl
  | some e => rw [Entry.id_of_ofId ho, classify_entry] at h; split_ifs at h

/-- The row of `opcode_table.json` that stands for a catalog entry: its id, and its length or the length's minimum. -/
def Entry.row (e : Entry) : TableRow :=
  match e.lengthRule with
  | .fixed n => ⟨.entry e, headerWord 0x80 0x81 0 e.id (BitVec.ofNat 8 n), headerWord 0xFF 0xFF 0 0xFF 0xFF, 0, []⟩
  | .atLeast n => ⟨.entry e, headerWord 0x80 0x81 0 e.id 0, headerWord 0xFF 0xFF 0 0xFF 0, n, []⟩

/-- The row of the generic frame: any id but the catalog's. -/
def genericRow : TableRow :=
  ⟨.generic, headerWord 0x80 0x81 0 0 0, headerWord 0xFF 0xFF 0 0 0, 0, Entry.all.map Entry.id⟩

/-- The table is one row per catalog entry and the generic row. -/
theorem opcodeTable_eq : opcodeTable = Entry.all.map Entry.row ++ [genericRow] := by
  decide

theorem Entry.row_kind (e : Entry) : e.row.kind = .entry e := by
  cases e <;> rfl

/-- A mask byte `FF` keeps the byte. -/
theorem byte_and_ff (b : Byte) : b &&& 0xFF = b := BitVec.and_allOnes

/-- A fixed length of the catalog is a byte. -/
theorem Entry.lt_of_lengthRule_fixed {e : Entry} {n : Nat} (h : e.lengthRule = .fixed n) : n < 256 := by
  cases e <;> cases h <;> decide

/-- A row that fixes the two header bytes and ignores the source applies by its masked id and length, its smallest
length and its excluded ids (R39). -/
theorem applies_headerWord_iff (k : Kind) (a b c d src id len : Byte) (n : Nat) (ex : List Byte) :
    (TableRow.mk k (headerWord 0x80 0x81 0 a b) (headerWord 0xFF 0xFF 0 c d) n ex).applies
        (headerWord 0x80 0x81 src id len) = true ↔
      id &&& c = a ∧ len &&& d = b ∧ n ≤ len.toNat ∧ id ∉ ex := by
  simp [TableRow.applies, headerWord_and, headerWord_inj, headerWord_length, headerWord_id, and_assoc]

/-- An entry's row applies to the headers with the entry's id and a length that fits, whatever the source. -/
theorem Entry.row_applies (e : Entry) (src id len : Byte) :
    e.row.applies (headerWord 0x80 0x81 src id len) = (e.lengthRule.fits len.toNat && e.id == id) := by
  rw [Bool.eq_iff_iff, Bool.and_eq_true, beq_iff_eq, and_comm, @eq_comm _ e.id]
  cases hr : e.lengthRule with
  | fixed n =>
    have hn : len = BitVec.ofNat 8 n ↔ len.toNat = n := by
      have := lt_of_lengthRule_fixed hr
      rw [← BitVec.toNat_inj, BitVec.toNat_ofNat, Nat.mod_eq_of_lt this]
    simp only [Entry.row, hr, applies_headerWord_iff, byte_and_ff, hn]
    simp [LengthRule.fits]
  | atLeast n =>
    simp only [Entry.row, hr, applies_headerWord_iff, byte_and_ff]
    simp [LengthRule.fits]

/-- The generic row applies to the headers with an id outside the catalog. -/
theorem genericRow_applies (src id len : Byte) :
    genericRow.applies (headerWord 0x80 0x81 src id len) = (Entry.ofId id).isNone := by
  rw [Bool.eq_iff_iff, Option.isNone_iff_eq_none, ofId_eq_none_iff, genericRow, applies_headerWord_iff]
  simp [Entry.all, Entry.id]

/-- The ids of the catalog are distinct, so filtering it by an id finds what `Entry.ofId` finds. -/
theorem filter_id_eq (id : Byte) : Entry.all.filter (fun e => e.id == id) = (Entry.ofId id).toList := by
  revert id; decide

/-- The entries' rows that apply are the entry of the id, if the length fits it. -/
theorem filter_row_applies (src id len : Byte) :
    Entry.all.filter (fun e => e.row.applies (headerWord 0x80 0x81 src id len)) =
      (Entry.ofId id).toList.filter (fun e => e.lengthRule.fits len.toNat) := by
  simp only [Entry.row_applies, ← List.filter_filter, filter_id_eq]

/-- The kinds of the rows that apply to a header. -/
theorem tableKinds_headerWord (src id len : Byte) : tableKinds (headerWord 0x80 0x81 src id len) =
    ((Entry.ofId id).toList.filter (fun e => e.lengthRule.fits len.toNat)).map Kind.entry ++
      if (Entry.ofId id).isNone then [.generic] else [] := by
  rw [← filter_row_applies src, ← genericRow_applies src id len, tableKinds, opcodeTable_eq, List.filter_append,
    List.map_append, List.filter_map, List.map_map, List.filter_singleton]
  have hkind : (fun r : TableRow => r.kind) ∘ Entry.row = Kind.entry := funext Entry.row_kind
  rw [hkind]
  cases genericRow.applies (headerWord 0x80 0x81 src id len) <;> rfl

end Sys2Proof

end

section
/-! PROOFS. Decoding and encoding are inverse (R25, R32, R40). -/

namespace Sys2Proof

/-- The payload of a well-formed instruction fits its length byte, and its id and length classify as its kind. -/
theorem payload_fits {i : Instr} (h : i.wellFormed = true) :
    i.payload.length ≤ 255 ∧ classify i.id i.payload.length = i.kind := by
  cases i with
  | steerCmd => exact Laws.PayloadFits.steerCmd _ _ _ _ _ _ h
  | steerSet => exact Laws.PayloadFits.steerSet _ _ h
  | steerFb => exact Laws.PayloadFits.steerFb _ _ _ _ _ h
  | implData => exact Laws.PayloadFits.implData _ _ _ _ _ h
  | implCfg => exact Laws.PayloadFits.implCfg _ _ h
  | implFb => exact Laws.PayloadFits.implFb _ _ h
  | imuCfg => exact Laws.PayloadFits.imuCfg _ _ h
  | imuData => exact Laws.PayloadFits.imuData _ _ _ _ _ _ _ h
  | helloHost => exact Laws.PayloadFits.helloHost _ _ h
  | scanReq => exact Laws.PayloadFits.scanReq _ _ h
  | helloSteer => exact Laws.PayloadFits.helloSteer _ _ _ h
  | helloImpl => exact Laws.PayloadFits.helloImpl _ _ _ h
  | helloImu => exact Laws.PayloadFits.helloImu _ _ _ h
  | generic => exact Laws.PayloadFits.generic _ _ _ h

/-! ### Reading behind a field -/

/-- A half word is read back where it was put (R18). -/
@[simp] theorem memRead2_bytesOfHalf_zero (w : Half) (l : List Byte) : memRead2 (bytesOfHalf w ++ l) 0 = some w :=
  congrArg some (append_bytes_of_half w)

@[simp] theorem memRead2_bytesOfHalf_add_two (w : Half) (l : List Byte) (n : Nat) :
    memRead2 (bytesOfHalf w ++ l) (n + 2) = memRead2 l n := rfl

@[simp] theorem memRead2_cons_succ (b : Byte) (l : List Byte) (n : Nat) :
    memRead2 (b :: l) (n + 1) = memRead2 l n := rfl

@[simp] theorem getElem?_bytesOfHalf_add_two (w : Half) (l : List Byte) (n : Nat) :
    (bytesOfHalf w ++ l)[n + 2]? = l[n]? := rfl

@[simp] theorem drop_bytesOfHalf_add_two (w : Half) (l : List Byte) (n : Nat) :
    (bytesOfHalf w ++ l).drop (n + 2) = l.drop n := rfl

/-! ### The operands of an entry -/

/-- Reading a payload at an entry's offsets gives the operands that were packed (R40). -/
theorem decodeEntry_payload {i : Instr} {e : Entry} (hwf : i.wellFormed = true) (hk : i.kind = .entry e) :
    decodeEntry e i.source i.payload = some i := by
  cases i <;> cases hk
  case steerSet | implCfg | implFb | imuCfg | helloHost | scanReq | helloSteer | helloImpl | helloImu => rfl
  case steerCmd => simp [decodeEntry, Instr.source, Instr.payload, packSteerCmd]
  case steerFb => simp [decodeEntry, Instr.source, Instr.payload, packSteerFb]
  case imuData => simp [decodeEntry, Instr.source, Instr.payload, packImuData]
  case implData src lo hi tramline sections =>
    simp only [Instr.wellFormed, Bool.and_eq_true, beq_iff_eq] at hwf
    obtain ⟨⟨hlo, hhi⟩, -⟩ := hwf
    simp [decodeEntry, Instr.source, Instr.payload, packImplData, hlo, hhi, List.getElem?_append, List.drop_append,
      List.drop_eq_nil_of_le]

/-- Operands read from a payload whose length fits the entry make a well-formed instruction (R31). -/
theorem decodeEntry_wellFormed {e : Entry} {src : Byte} {pay : List Byte} {i : Instr}
    (h : decodeEntry e src pay = some i) (hfits : e.lengthRule.fits pay.length = true) (hle : pay.length ≤ 255) :
    i.wellFormed = true := by
  cases e
  all_goals
    simp only [Entry.lengthRule, LengthRule.fits, beq_iff_eq, decide_eq_true_eq] at hfits
    simp only [decodeEntry, Option.bind_eq_bind, Option.bind_eq_some_iff, Option.pure_def, Option.some.injEq] at h
  case steerSet | implCfg | implFb | imuCfg | helloHost | scanReq =>
    subst h; simp [Instr.wellFormed, hfits]
  case helloSteer | helloImpl | helloImu =>
    obtain ⟨_, -, rfl⟩ := h; simp [Instr.wellFormed, hfits]
  case steerCmd => obtain ⟨_, -, _, -, _, -, _, -, rfl⟩ := h; simp [Instr.wellFormed, hfits]
  case steerFb => obtain ⟨_, -, _, -, _, -, rfl⟩ := h; simp [Instr.wellFormed, hfits]
  case implData => obtain ⟨_, -, rfl⟩ := h; simp [Instr.wellFormed]; omega
  case imuData => obtain ⟨_, -, _, -, _, -, _, -, _, -, rfl⟩ := h; simp [Instr.wellFormed, hfits]

/-- The frame of a well-formed instruction decodes to it. -/
theorem decodeFrame_payload {i : Instr} (hwf : i.wellFormed = true) :
    decodeFrame { src := i.source, id := i.id, len := BitVec.ofNat 8 i.payload.length, pay := i.payload } = some i := by
  obtain ⟨hle, hclass⟩ := payload_fits hwf
  simp only [decodeFrame, toNat_lengthByte hle, hclass]
  cases hk : i.kind with
  | none => cases i <;> cases hk
  | generic => cases i <;> cases hk; rfl
  | entry e => exact decodeEntry_payload hwf hk

/-- What a well-formed frame decodes to is well-formed. -/
theorem decodeFrame_wellFormed {f : Frame} {i : Instr} (h : decodeFrame f = some i) (hle : f.pay.length ≤ 255)
    (hlen : f.len = BitVec.ofNat 8 f.pay.length) : i.wellFormed = true := by
  rw [decodeFrame, hlen, toNat_lengthByte hle] at h
  cases hk : classify f.id f.pay.length with
  | none => rw [hk] at h; cases h
  | generic =>
    rw [hk] at h; cases h
    simp [Instr.wellFormed, ofId_eq_none_of_classify hk, hle]
  | entry e =>
    rw [hk] at h
    exact decodeEntry_wellFormed h (classify_eq_entry_iff.mp hk).2 hle

/-- `MSG.PARSE` of a built frame reads its payload as the kind its id and length classify as (R68). -/
theorem msgParse_frameBytes (src id : Byte) {pay : List Byte} (h : pay.length ≤ 255) :
    msgParse (frameBytes src id pay) = unpackKind (classify id pay.length) id pay := by
  simp only [msgParse, frameParse_frameBytes src id h, toNat_lengthByte h]

/-- A packet decodes to an instruction exactly when it is parsed to a frame that does. -/
theorem decode_eq_ok_iff {bs : List Byte} {i : Instr} :
    decode bs = .ok i ↔ ∃ f, frameParse bs = .ok f ∧ decodeFrame f = some i := by
  unfold decode
  cases frameParse bs with
  | error e => simp
  | ok f => cases hd : decodeFrame f <;> simp [hd]

end Sys2Proof

end

section
/-! PROOFS. A delivered packet (R53, R54, R57): the bytes before the last one by one, and then the end of a frame that
the parser accepts, whatever it classifies as. -/

namespace Sys2Proof.Machine

/-- The bytes of a packet before its last, received one by one. -/
def receive (bs : List Byte) (s : State) : State := bs.foldl (fun t b => rxMore b t) s

@[simp] theorem receive_nil (s : State) : receive [] s = s := rfl

@[simp] theorem receive_cons (b : Byte) (bs : List Byte) (s : State) :
    receive (b :: bs) s = receive bs (rxMore b s) := rfl

@[simp] theorem receive_append (bs cs : List Byte) (s : State) :
    receive (bs ++ cs) s = receive cs (receive bs s) := List.foldl_append

/-- The events of a packet, its last byte split off. -/
theorem packetEvents_concat (bs : List Byte) (b : Byte) :
    packetEvents (bs ++ [b]) = bs.map (.rxByte · false) ++ [.rxByte b true] := by
  simp [packetEvents]

theorem runSteps_one (s : State) : runSteps 1 s = step s := by
  rw [runSteps]
  cases step s <;> rfl

theorem runSteps_succ {s t : State} (n : Nat) (h : step s = .next t) : runSteps (n + 1) s = runSteps n t := by
  rw [runSteps, h]

/-- Where the queue moves and holds a packet, its steps receive it (R111). -/
theorem runSteps_packet {bs : List Byte} {b : Byte} {s : State} {es : List Event} (hq : QueueMoves s)
    (he : s.events = packetEvents (bs ++ [b]) ++ es) :
    runSteps (bs.length + 1) s = rxLast b (receive bs { s with events := es }) := by
  rw [packetEvents_concat] at he
  induction bs generalizing s with
  | nil =>
    rw [List.length_nil, runSteps_one, step_of_events hq he]; rfl
  | cons c bs ih =>
    obtain ⟨⟨htx, -⟩, -, hheld, -⟩ := rxMore_frame c s
    have hstep := (step_of_events hq he).trans (congrArg Host.Outcome.next (rxMore_events c s _))
    rw [List.length_cons, runSteps_succ _ hstep]
    exact (ih (s := { rxMore c s with events := bs.map (.rxByte · false) ++ [.rxByte b true] ++ es })
        (hq.imp hheld.trans htx.trans) rfl).trans
      (congrArg (fun t => rxLast b (receive bs t)) (rxMore_events c s es).symm)

/-- The five header bytes (R53). -/
theorem receive_header {s : State} (b0 b1 src id len : Byte) (h : s.rxPos = 0) :
    receive [b0, b1, src, id, len] s =
      { s with rxStatus := .busy, rxHdrOk := b0 == Config.hdr0 && b1 == Config.hdr1, rxSrc := src, rxId := id,
               rxLen := len, rxAcc := sum8 [src, id, len], rxPos := 5 } := by
  have hfive : posSucc (posSucc (posSucc (posSucc (posSucc 0#9)))) = 5#9 := rfl
  simp [rxMore_first, rxMore_second, rxMore_source, rxMore_id, rxMore_length, posSucc_toNat, h, hfive, BitVec.add_assoc]

/-- The payload bytes, as long as each has a place (R53). -/
theorem receive_payload {s : State} (pay : List Byte) (h : 5 ≤ s.rxPos.toNat)
    (hplaces : s.rxPos.toNat + pay.length ≤ 260) :
    receive pay s =
      { s with rxAcc := s.rxAcc + sum8 pay, rxPay := s.rxPay.writeFrom (s.rxPos.toNat - 5) pay,
               rxPos := BitVec.ofNat 9 (s.rxPos.toNat + pay.length) } := by
  induction pay generalizing s with
  | nil => simp [Memory.writeFrom]
  | cons b pay ih =>
    rw [List.length_cons] at hplaces
    have hpos : (posSucc s.rxPos).toNat = s.rxPos.toNat + 1 := by rw [posSucc_toNat]; omega
    rw [receive_cons, rxMore_payload h (by omega), ih (by simp only [hpos]; omega) (by simp only [hpos]; omega)]
    have hplace : s.rxPos.toNat + 1 - 5 = s.rxPos.toNat - 5 + 1 := by omega
    have hend : s.rxPos.toNat + 1 + pay.length = s.rxPos.toNat + (pay.length + 1) := by omega
    simp only [hpos, hplace, hend, Memory.writeFrom, sum8_cons, BitVec.add_assoc, List.length_cons]

/-- The state before the last byte of a frame: the registers hold it, with its sum, and the header matched (R46,
R53). -/
def frameReceived (src id : Byte) (pay : List Byte) (s : State) : State :=
  { s with rxStatus := .busy, rxHdrOk := true, rxSrc := src, rxId := id, rxLen := BitVec.ofNat 8 pay.length,
           rxAcc := crcOfFrame src id pay, rxPay := s.rxPay.writeFrom 0 pay, rxPos := BitVec.ofNat 9 (5 + pay.length) }

/-- From any state between packets the bytes of a frame before its last lead there. -/
theorem receive_frame (src id : Byte) {pay : List Byte} {s : State} (hpos : s.rxPos = 0) (hle : pay.length ≤ 255) :
    receive ([Config.hdr0, Config.hdr1, src, id, BitVec.ofNat 8 pay.length] ++ pay) s = frameReceived src id pay s := by
  rw [receive_append, receive_header _ _ _ _ _ hpos, receive_payload pay (by simp) (by simp; omega)]
  simp [frameReceived, crcOfFrame, BitVec.add_assoc]

/-- The frame's own sum passes the four tests (R54). -/
theorem rxVerdict_frameReceived (src id : Byte) {pay : List Byte} (hle : pay.length ≤ 255) (s : State) :
    rxVerdict (crcOfFrame src id pay) (frameReceived src id pay s) = .ok := by
  have hpos : (frameReceived src id pay s).rxPos.toNat = 5 + pay.length := by simp [frameReceived]; omega
  have hlen : (frameReceived src id pay s).rxLen.toNat = pay.length := toNat_lengthByte hle
  have hhdr : (frameReceived src id pay s).rxHdrOk = true := rfl
  have hacc : (frameReceived src id pay s).rxAcc = crcOfFrame src id pay := rfl
  simp [rxVerdict, hpos, hlen, hhdr, hacc]

/-! ### The frame the registers hold -/

/-- Its length byte counts its payload. -/
theorem heldFrame_len {s : State} {f : Frame} (h : heldFrame s = some f) : f.pay.length = f.len.toNat := by
  obtain ⟨pay, hpay, rfl⟩ := Option.map_eq_some_iff.mp h
  exact ((Memory.readRange_eq_some_iff _ _ _ _).mp hpay).1

/-- Payload bytes written from place 0 on are those of the frame held. -/
theorem heldFrame_of_writeFrom {s : State} {m : Memory} {pay : List Byte} (hpay : s.rxPay = m.writeFrom 0 pay)
    (hlen : s.rxLen.toNat = pay.length) :
    heldFrame s = some { src := s.rxSrc, id := s.rxId, len := s.rxLen, pay := pay } := by
  rw [heldFrame, hpay, hlen, Memory.readRange_writeFrom]; rfl

/-- A reception leaves its own frame held. -/
theorem heldFrame_rxAccept {f : Frame} (h : f.pay.length = f.len.toNat) (s : State) :
    heldFrame (rxAccept f.src f.id f.pay s) = some f := by
  have hle : f.pay.length ≤ 255 := by have := f.len.isLt; omega
  have hpay : (rxAccept f.src f.id f.pay s).rxPay = s.rxPay.writeFrom 0 f.pay :=
    congrArg (s.rxPay.writeFrom 0) (List.take_of_length_le hle)
  rw [heldFrame_of_writeFrom hpay (toNat_lengthByte hle)]
  simp [h]

/-- The end of an accepted packet leaves `OK` and the frame held, whatever the frame classifies as (R34, R54). -/
theorem rxLast_of_heldFrame {b : Byte} {f : Frame} {s : State} (hv : rxVerdict b s = .ok)
    (hf : heldFrame s = some f) : ∃ t, rxLast b s = .next t ∧ t.rxStatus = .ok ∧ heldFrame t = some f := by
  rcases rxLast_cases b s with ⟨f', i, -, hf', hd, hl⟩ | hl
  · obtain rfl : f' = f := Option.some.inj (hf'.symm.trans hf)
    obtain ⟨hsrc, hid, hpay⟩ := decodeFrame_fields hd
    rw [hsrc, hid, hpay] at hl
    exact ⟨_, hl, rfl, heldFrame_rxAccept (heldFrame_len hf) s⟩
  · exact ⟨_, hl, hv, hf⟩

/-- While the status is `OK`, the read ports give the frame held and `RX_KIND` its kind (R15, R78). -/
theorem readings_of_heldFrame {t : State} {f : Frame} (hok : t.rxStatus = .ok) (h : heldFrame t = some f) :
    readRxSrc t = .ok f.src ∧ readRxId t = .ok f.id ∧ readRxLen t = .ok f.len ∧ readPayload t = .ok f.pay ∧
      rxKind t = classify f.id f.len.toNat := by
  obtain ⟨pay, hpay, rfl⟩ := Option.map_eq_some_iff.mp h
  exact ⟨if_pos hok, if_pos hok, if_pos hok, by rw [readPayload, if_pos hok, hpay], if_pos hok⟩

/-- A built frame delivered to a free RX unit is accepted and held, whatever it classifies as (R54, R57). -/
theorem exists_runSteps_frameBytes {src id : Byte} {pay : List Byte} {s : State} {es : List Event}
    (hle : pay.length ≤ 255) (hq : QueueMoves s) (hpos : s.rxPos = 0)
    (he : s.events = packetEvents (frameBytes src id pay) ++ es) :
    ∃ t, runSteps (6 + pay.length) s = .next t ∧ t.rxStatus = .ok ∧
      heldFrame t = some { src := src, id := id, len := BitVec.ofNat 8 pay.length, pay := pay } := by
  have hrun := runSteps_packet hq he
  rw [receive_frame (s := { s with events := es }) src id hpos hle] at hrun
  have hf := heldFrame_of_writeFrom (s := frameReceived src id pay { s with events := es }) rfl (toNat_lengthByte hle)
  obtain ⟨t, hlast, hok, hheld⟩ := rxLast_of_heldFrame (rxVerdict_frameReceived src id hle _) hf
  refine ⟨t, ?_, hok, hheld⟩
  rw [← hlast, ← hrun, ← length_frameBytes src id pay, frameBytes, List.length_append, List.length_singleton]

end Sys2Proof.Machine
end

section
/-! PROOFS. The statements about the encoding (spec/30_encoding.md). -/

namespace Sys2Proof.Proofs

open Sys2Proof Sys2Proof.Machine Sys2Proof.Claims

/-- Settles O13: the built packet is parsed to the instruction's frame, and that decodes operand by operand. -/
theorem decodeOfEncodeIsTheInstruction : Obligations.DecodeOfEncodeIsTheInstruction := by
  intro i hwf
  exact decode_eq_ok_iff.mpr ⟨_, frameParse_frameBytes i.source i.id (payload_fits hwf).1, decodeFrame_payload hwf⟩

/-- Settles O14: the packet is its frame's own built packet, and the instruction keeps the frame's source, id and
payload. -/
theorem encodeOfDecodeIsThePacket : Obligations.EncodeOfDecodeIsThePacket := by
  intro bs i h
  obtain ⟨f, hf, hi⟩ := decode_eq_ok_iff.mp h
  obtain ⟨hle, hlen, rfl⟩ := frameParse_eq_ok_iff.mp hf
  obtain ⟨hsrc, hid, hpay⟩ := decodeFrame_fields hi
  exact ⟨decodeFrame_wellFormed hi hle hlen, by rw [encode, hsrc, hid, hpay]⟩

/-- Settles O3: the accepted packets are the well-formed ones, whose length byte bounds them. -/
theorem parserAcceptsExactlyTheWellFormedPackets : Obligations.ParserAcceptsExactlyTheWellFormedPackets := by
  intro bs
  refine ⟨?_, fun f h => length_le_of_wellFormedPacket ((exists_frameParse_iff bs).mp ⟨f, h⟩)⟩
  rw [exists_frameParse_iff, WellFormedPacket, crcOfPacket_eq]; rfl

/-- Settles O9: outside the catalog by its list of ids, inside it row by row. -/
theorem classifyFollowsTheCatalog : Obligations.ClassifyFollowsTheCatalog := by
  intro id len
  simp only [← ofId_eq_none_iff]
  cases h : Entry.ofId id with
  | none => rw [classify_of_ofId_eq_none h, if_pos rfl]
  | some e =>
    obtain rfl := Entry.id_of_ofId h
    rw [classify_entry, if_neg (Option.some_ne_none e)]
    cases e <;> simp [Entry.id, Entry.lengthRule, LengthRule.fits]

/-- Settles O12: outside the catalog the generic row applies, and inside it the row of the id's entry if the length
fits. -/
theorem opcodeTableSelectsWhatClassifySelects : Obligations.OpcodeTableSelectsWhatClassifySelects := by
  intro src id len
  rw [tableKinds_headerWord]
  cases h : Entry.ofId id with
  | none => simp [classify_of_ofId_eq_none h]
  | some e =>
    obtain rfl := Entry.id_of_ofId h
    rw [classify_entry]
    cases hfits : e.lengthRule.fits len.toNat <;> simp [hfits]

/-- Settles O25: such an id finds no entry, so its frame is read as the generic one. -/
theorem unknownIdParsesAsGeneric : Obligations.UnknownIdParsesAsGeneric := by
  intro src id pay hle hid
  have hclass := classify_of_ofId_eq_none ((ofId_eq_none_iff id).mpr hid)
  exact ⟨hclass, by rw [msgParse_frameBytes src id hle, hclass, unpackKind]⟩

/-- Settles O42: the typed layer reads nothing of kind `NONE`, and the reception holds the frame whatever its kind. -/
theorem misfitLengthIsAcceptedWithoutMessage : Obligations.MisfitLengthIsAcceptedWithoutMessage := by
  intro src id pay s es hle hclass hq hpos he
  have hparse : msgParse (frameBytes src id pay) = none := by
    rw [msgParse_frameBytes src id hle, hclass, unpackKind]
  obtain ⟨t, hrun, hok, hheld⟩ := exists_runSteps_frameBytes hle hq hpos he
  obtain ⟨hsrc, hid, hlen, hpay, hkind⟩ := readings_of_heldFrame hok hheld
  refine ⟨hparse, fun e => by rw [msgParseEntry, hparse], t, hrun, hok, ?_, hsrc, hid, hlen, hpay⟩
  rw [hkind, toNat_lengthByte hle, hclass]

end Sys2Proof.Proofs
end

section
/-! PROOFS. The laws of the checksum (R44) and what it detects in a packet (R45). -/

namespace Sys2Proof

/-- The checksum is the sum of the bytes as 8-bit words (R41). -/
theorem sum8_eq_sum (s : List Byte) : sum8 s = s.sum := by
  induction s with
  | nil => rfl
  | cons b s ih => rw [sum8_cons, List.sum_cons, ih]

/-- Read as a number it is the byte sum modulo 256 (R44 (a), (f)). -/
theorem toNat_sum8 (s : List Byte) : (sum8 s).toNat = (s.map BitVec.toNat).sum % 256 := by
  induction s with
  | nil => rfl
  | cons b s ih => rw [sum8_cons, BitVec.toNat_add, ih, List.map_cons, List.sum_cons, Nat.add_mod_mod]

/-- R44 (b). -/
theorem sum8_append (a b : List Byte) : sum8 (a ++ b) = sum8 a + sum8 b := by
  simp only [sum8_eq_sum, List.sum_append]

/-- R44 (c). -/
theorem sum8_eq_of_perm {a b : List Byte} (h : a.Perm b) : sum8 a = sum8 b := by
  rw [sum8_eq_sum, sum8_eq_sum, h.sum_eq]

/-- R44 (e). -/
theorem sum8_replace (a b : List Byte) (u v : Byte) : sum8 (a ++ v :: b) = sum8 (a ++ u :: b) + (v - u) := by
  simp only [sum8_append, sum8_cons]; ring

/-- The difference that a changed byte makes is not zero (R44 (e)). -/
theorem sum8_replace_ne (a b : List Byte) {u v : Byte} (h : u ≠ v) : sum8 (a ++ v :: b) ≠ sum8 (a ++ u :: b) := by
  rw [sum8_replace a b u v, ne_eq, add_eq_left, sub_eq_zero]
  exact h.symm

/-- A byte written over another one at an index changes the checksum. -/
theorem sum8_set_ne {s : List Byte} {i : Nat} (hi : i < s.length) {b : Byte} (hb : b ≠ s[i]) :
    sum8 (s.set i b) ≠ sum8 s := by
  have hs : s = s.take i ++ s[i] :: s.drop (i + 1) := by simp
  rw [List.set_eq_take_append_cons_drop, if_pos hi]
  conv_rhs => rw [hs]
  exact sum8_replace_ne _ _ hb.symm

/-- Two spans with their trailers, one got from the other by writing one byte: nothing was changed. A byte of the span
alone changes the sum, and the trailer alone no longer is the sum. -/
theorem eq_getElem_of_set_trailer {s s' : List Byte} {i : Nat} (hi : i < (s ++ [sum8 s]).length) {b : Byte}
    (h : (s ++ [sum8 s]).set i b = s' ++ [sum8 s']) : b = (s ++ [sum8 s])[i] := by
  by_cases hspan : i < s.length
  · rw [List.set_append_left _ _ hspan] at h
    obtain ⟨hs, hsum⟩ := List.append_inj' h rfl
    subst hs
    rw [List.getElem_append_left hspan]
    by_contra hb
    exact sum8_set_ne hspan hb (List.cons.inj hsum).1.symm
  · obtain rfl : i = s.length := by simp at hi; omega
    rw [List.set_append_right _ _ le_rfl, Nat.sub_self, List.set_cons_zero] at h
    obtain ⟨rfl, hsum⟩ := List.append_inj' h rfl
    simpa using hsum

/-- A built packet: the header, and the span of R42 with its trailer. -/
theorem frameBytes_eq_span (src id : Byte) (pay : List Byte) : ∃ span,
    frameBytes src id pay = Config.hdr0 :: Config.hdr1 :: (span ++ [sum8 span]) :=
  ⟨[src, id, BitVec.ofNat 8 pay.length] ++ pay, rfl⟩

/-- Writing one byte of a built packet gives no other built packet (R45). -/
theorem eq_getElem_of_set_frameBytes {bs : List Byte} {src id src' id' : Byte} {pay pay' : List Byte} {i : Nat}
    (hi : i < bs.length) {b : Byte} (hbs : bs = frameBytes src id pay)
    (h : bs.set i b = frameBytes src' id' pay') : b = bs[i] := by
  obtain ⟨span, hspan⟩ := frameBytes_eq_span src id pay
  obtain ⟨span', hspan'⟩ := frameBytes_eq_span src' id' pay'
  obtain rfl := hbs.trans hspan
  rw [hspan'] at h
  match i with
  | 0 => exact (List.cons.inj h).1
  | 1 => exact (List.cons.inj (List.cons.inj h).2).1
  | i + 2 =>
    exact eq_getElem_of_set_trailer (by simpa using hi) (List.cons.inj (List.cons.inj h).2).2

/-- A permuted payload keeps the trailer (R45). -/
theorem crcOfFrame_eq_of_perm (src id : Byte) {pay pay' : List Byte} (h : pay'.Perm pay) :
    crcOfFrame src id pay' = crcOfFrame src id pay := by
  rw [crcOfFrame, crcOfFrame, h.length_eq]
  exact sum8_eq_of_perm (h.append_left _)

end Sys2Proof

end

section
/-! PROOFS. The statements about the checksum (spec/40_checksum.md). -/

namespace Sys2Proof.Proofs

open Sys2Proof Sys2Proof.Machine Sys2Proof.Claims

/-- Settles O1, law by law. -/
theorem sumIsByteSumModulo256WithItsLaws : Obligations.SumIsByteSumModulo256WithItsLaws := by
  refine ⟨toNat_sum8, fun a b => ?_, fun a b => sum8_eq_of_perm, fun s => ?_, sum8_replace,
    fun a b u v => sum8_replace_ne a b⟩
  · rw [sum8_append, BitVec.toNat_add]
  · rw [sum8_concat]; exact BitVec.add_zero _

/-- Settles O4: both packets would be built packets that differ in one byte. -/
theorem anyChangedByteIsRejected : Obligations.AnyChangedByteIsRejected := by
  intro bs f i hi b hf hb
  obtain ⟨-, -, hbs⟩ := frameParse_eq_ok_iff.mp hf
  cases hg : frameParse (bs.set i b) with
  | error e => exact ⟨e, rfl⟩
  | ok g =>
    obtain ⟨-, -, hset⟩ := frameParse_eq_ok_iff.mp hg
    exact absurd (eq_getElem_of_set_frameBytes hi hbs hset) hb

/-- Settles O5: the packet is the one built from the permuted payload. -/
theorem reorderedPayloadIsAccepted : Obligations.ReorderedPayloadIsAccepted := by
  intro src id pay pay' hle hperm
  rw [← crcOfFrame_eq_of_perm src id hperm, ← hperm.length_eq]
  exact frameParse_frameBytes src id (hperm.length_eq.trans_le hle)

end Sys2Proof.Proofs
end

section
/-! PROOFS. The parser's tests on the parts of a packet, and what it never answers: a long packet is not
short, and no two frames of different lengths share their length byte (R47, R50). -/

namespace Sys2Proof

/-- The header test on the parts of a packet (R47). -/
theorem parts_header_iff (b0 b1 src id len t : Byte) (body : List Byte) :
    (([b0, b1, src, id, len] ++ body ++ [t])[0]? = some 0x80 ∧
      ([b0, b1, src, id, len] ++ body ++ [t])[1]? = some 0x81) ↔ ¬ (b0 ≠ Config.hdr0 ∨ b1 ≠ Config.hdr1) := by
  simp [Config.hdr0, Config.hdr1]

/-- The length test on the parts of a packet (R47). -/
theorem parts_length_iff (b0 b1 src id len t : Byte) (body : List Byte) :
    ([b0, b1, src, id, len] ++ body ++ [t])[4]?.map BitVec.toNat =
      some (([b0, b1, src, id, len] ++ body ++ [t]).length - 6) ↔ ¬ len.toNat ≠ body.length := by
  simp

/-- A packet of at least six bytes is never refused as short (R47). -/
theorem frameParse_ne_short {bs : List Byte} (h : 6 ≤ bs.length) : frameParse bs ≠ .error .short := by
  obtain ⟨b0, b1, src, id, len, body, t, rfl⟩ := packet_parts h
  rw [frameParse_parts]
  split_ifs <;> simp

/-- The parser rejects exactly the packets that are not well-formed (R27, R49). -/
theorem exists_frameParse_error_iff (bs : List Byte) :
    (∃ e, frameParse bs = .error e) ↔ ¬ WellFormedPacket bs := by
  rw [← exists_frameParse_iff]
  cases frameParse bs <;> simp

/-- A well-formed packet's length is told by its byte 4 (R50). -/
theorem length_eq_of_wellFormedPacket {bs bs' : List Byte} (h : WellFormedPacket bs) (h' : WellFormedPacket bs')
    (h4 : bs'[4]? = bs[4]?) : bs'.length = bs.length := by
  obtain ⟨hlong, -, -, -, hlen⟩ := h
  obtain ⟨hlong', -, -, -, hlen'⟩ := h'
  rw [h4, hlen, Option.some.injEq] at hlen'
  omega

end Sys2Proof
end

section
/-! PROOFS. The RX sequencer computes the parser (R52 to R58): what each byte writes, what a whole packet leaves in the
registers, and what can then be read. -/

namespace Sys2Proof.Machine

/-- The status a parser's result stands for: `OK`, or the code of the test that failed (R57). -/
def parseStatus : Except ParseError Frame → RxStatus
  | .ok _ => .ok
  | .error e => rxStatusOf e

/-- Only an accepted packet has the status `OK`. -/
theorem parseStatus_eq_ok_iff {r : Except ParseError Frame} : parseStatus r = .ok ↔ ∃ f, r = .ok f := by
  cases r with
  | ok f => simp [parseStatus]
  | error e => cases e <;> simp [parseStatus, rxStatusOf]

/-! ### One byte -/

/-- R53 register by register. -/
theorem rxMore_eq (b : Byte) (s : State) : rxMore b s =
    { s with
      rxStatus := if s.rxPos.toNat = 0 then .busy else s.rxStatus
      rxAcc := if s.rxPos.toNat = 0 then 0 else if s.rxPos.toNat = 1 then s.rxAcc else s.rxAcc + b
      rxHdrOk := if s.rxPos.toNat = 0 then b == Config.hdr0
        else if s.rxPos.toNat = 1 then s.rxHdrOk && b == Config.hdr1 else s.rxHdrOk
      rxSrc := if s.rxPos.toNat = 2 then b else s.rxSrc
      rxId := if s.rxPos.toNat = 3 then b else s.rxId
      rxLen := if s.rxPos.toNat = 4 then b else s.rxLen
      rxPay := if 5 ≤ s.rxPos.toNat ∧ s.rxPos.toNat ≤ 259 then s.rxPay.write (s.rxPos.toNat - 5) b else s.rxPay
      rxPos := posSucc s.rxPos } := by
  obtain h | h | h | h | h | h : s.rxPos.toNat = 0 ∨ s.rxPos.toNat = 1 ∨ s.rxPos.toNat = 2 ∨ s.rxPos.toNat = 3 ∨
    s.rxPos.toNat = 4 ∨ 5 ≤ s.rxPos.toNat := by omega
  · simp [rxMore_first h, h]
  · simp [rxMore_second h, h]
  · simp [rxMore_source h, h]
  · simp [rxMore_id h, h]
  · simp [rxMore_length h, h]
  · have hne : ∀ k < 5, s.rxPos.toNat ≠ k := by omega
    by_cases hplace : s.rxPos.toNat ≤ 259
    · simp [rxMore_payload h hplace, h, hplace, hne]
    · simp [rxMore_beyond (b := b) (by omega : 260 ≤ s.rxPos.toNat), hplace, hne]

/-- The verdict is R54's chain of tests. -/
theorem rxVerdict_eq (b : Byte) (s : State) : rxVerdict b s =
    if s.rxPos.toNat < 5 then .errShort
    else if s.rxHdrOk = false then .errHeader
    else if s.rxAcc ≠ b then .errChecksum
    else if s.rxLen.toNat ≠ s.rxPos.toNat - 5 then .errLength
    else .ok := by
  simp only [rxVerdict, Bool.not_eq_true']

/-! ### The bytes of a packet before its last -/

/-- They move the position only as far as it goes (R10, R58). -/
theorem receive_rxPos (bs : List Byte) (s : State) :
    (receive bs s).rxPos.toNat = min (s.rxPos.toNat + bs.length) 511 := by
  have := s.rxPos.isLt
  induction bs generalizing s with
  | nil => simp; omega
  | cons b bs ih =>
    rw [receive_cons, ih _ (rxMore b s).rxPos.isLt, rxMore_rxPos, posSucc_toNat, List.length_cons]
    omega

/-- They touch neither the TX unit nor the environment's side. -/
theorem receive_keeps (bs : List Byte) (s : State) : SameTx s (receive bs s) ∧ SameEnv s (receive bs s) := by
  induction bs generalizing s with
  | nil => exact ⟨⟨rfl, rfl, rfl, rfl⟩, rfl, rfl, rfl⟩
  | cons b bs ih =>
    obtain ⟨⟨h1, h2, h3, h4⟩, h5, h6, h7⟩ := rxMore_frame b s
    obtain ⟨⟨g1, g2, g3, g4⟩, g5, g6, g7⟩ := ih (rxMore b s)
    exact ⟨⟨g1.trans h1, g2.trans h2, g3.trans h3, g4.trans h4⟩, g5.trans h5, g6.trans h6, g7.trans h7⟩

/-- However many bytes follow the header, each is summed, and the header's registers stay (R53, R58). -/
theorem receive_body (body : List Byte) {s : State} (h : 5 ≤ s.rxPos.toNat) :
    (receive body s).rxAcc = s.rxAcc + sum8 body ∧ (receive body s).rxHdrOk = s.rxHdrOk ∧
      (receive body s).rxLen = s.rxLen := by
  induction body generalizing s with
  | nil => simp
  | cons b body ih =>
    have hne : ∀ k < 5, s.rxPos.toNat ≠ k := by omega
    have hpos : 5 ≤ (rxMore b s).rxPos.toNat := by rw [rxMore_rxPos, posSucc_toNat]; omega
    obtain ⟨hacc, hhdr, hlen⟩ := ih hpos
    rw [receive_cons, hacc, hhdr, hlen, rxMore_eq]
    simp [hne, BitVec.add_assoc]

/-! ### The end of a packet -/

/-- The four tests on the registers are the parser's on the packet, however far the position has saturated. -/
theorem rxVerdict_receive_parts (b0 b1 src id len b : Byte) (body : List Byte) {s : State} (hpos : s.rxPos = 0) :
    rxVerdict b (receive ([b0, b1, src, id, len] ++ body) s) =
      parseStatus (frameParse ([b0, b1, src, id, len] ++ body ++ [b])) := by
  have hheader := receive_header b0 b1 src id len hpos
  have hp : (receive ([b0, b1, src, id, len] ++ body) s).rxPos.toNat = min (5 + body.length) 511 := by
    rw [receive_append, hheader, receive_rxPos]; rfl
  obtain ⟨hacc, hhdr, hlen⟩ := receive_body body (s := receive [b0, b1, src, id, len] s) (by rw [hheader]; simp)
  rw [← receive_append, hheader] at hacc hhdr hlen
  have htest2 : (b0 == Config.hdr0 && b1 == Config.hdr1) = false ↔ b0 ≠ Config.hdr0 ∨ b1 ≠ Config.hdr1 := by
    simp [imp_iff_not_or]
  have htest3 : sum8 [src, id, len] + sum8 body = sum8 ([src, id, len] ++ body) := (sum8_append _ _).symm
  have htest4 : len.toNat ≠ min (5 + body.length) 511 - 5 ↔ len.toNat ≠ body.length := by
    have := len.isLt; omega
  rw [rxVerdict_eq, hp, hacc, hhdr, hlen, frameParse_parts, if_neg (by omega)]
  simp only [htest2, htest3, htest4]
  split_ifs <;> rfl

/-- From any state between packets the verdict on a packet is the parser's (R57). -/
theorem rxVerdict_receive (bs : List Byte) (b : Byte) {s : State} (hpos : s.rxPos = 0) :
    rxVerdict b (receive bs s) = parseStatus (frameParse (bs ++ [b])) := by
  by_cases hlong : 6 ≤ (bs ++ [b]).length
  · obtain ⟨b0, b1, src, id, len, body, t, hparts⟩ := packet_parts hlong
    obtain ⟨rfl, hb⟩ := List.append_inj' hparts rfl
    exact rxVerdict_receive_parts b0 b1 src id len b body hpos
  · have hshort : bs.length < 5 := by simpa using hlong
    have hp := receive_rxPos bs s
    simp only [hpos, BitVec.ofNat_eq_ofNat, BitVec.toNat_ofNat, Nat.zero_mod] at hp
    rw [frameParse_of_length_lt (by omega), rxVerdict_eq, if_pos (by omega)]; rfl

/-- The end of a packet writes its verdict, returns the position to 0, and keeps the frame held if it is accepted
(R54). -/
theorem exists_rxLast (b : Byte) (s : State) : ∃ t, rxLast b s = .next t ∧ t.rxPos = 0 ∧
    t.rxStatus = rxVerdict b s ∧ (∀ f, rxVerdict b s = .ok → heldFrame s = some f → heldFrame t = some f) := by
  rcases rxLast_cases b s with ⟨f, i, hv, hf, hd, hl⟩ | hl
  · refine ⟨_, hl, rfl, hv.symm, fun g _ hg => ?_⟩
    obtain rfl : f = g := Option.some.inj (hf.symm.trans hg)
    obtain ⟨hsrc, hid, hpay⟩ := decodeFrame_fields hd
    rw [hsrc, hid, hpay]
    exact heldFrame_rxAccept (heldFrame_len hf) s
  · exact ⟨_, hl, rfl, rfl, fun _ _ hg => hg⟩

/-- Before its last byte an accepted packet's frame is held (R53). -/
theorem heldFrame_receive {bs : List Byte} {b : Byte} {f : Frame} {s : State} (hpos : s.rxPos = 0)
    (h : frameParse (bs ++ [b]) = .ok f) : heldFrame (receive bs s) = some f := by
  obtain ⟨hle, hlen, hbs⟩ := frameParse_eq_ok_iff.mp h
  obtain ⟨rfl, -⟩ := List.append_inj' hbs rfl
  obtain ⟨src, id, len, pay⟩ := f
  dsimp only at hle hlen ⊢
  rw [receive_frame src id hpos hle, hlen]
  exact heldFrame_of_writeFrom (s := frameReceived src id pay s) rfl (toNat_lengthByte hle)

/-- A delivered packet, from any state between packets: the parser's result as the status, its frame held, and the TX
unit and the environment's side not touched (R57). -/
theorem exists_runSteps_packet {bs : List Byte} {s : State} {es : List Event} (hbs : bs ≠ []) (hq : QueueMoves s)
    (hpos : s.rxPos = 0) (he : s.events = packetEvents bs ++ es) :
    ∃ t, runSteps bs.length s = .next t ∧ t.rxPos = 0 ∧ SameTx s t ∧ SameEnv { s with events := es } t ∧
      t.rxStatus = parseStatus (frameParse bs) ∧ ∀ f, frameParse bs = .ok f → heldFrame t = some f := by
  obtain ⟨bs, b, rfl⟩ := List.eq_nil_or_concat' bs |>.resolve_left hbs
  obtain ⟨⟨htx1, htx2, htx3, htx4⟩, henv1, henv2, henv3⟩ := receive_keeps bs { s with events := es }
  have hv := rxVerdict_receive bs b (s := { s with events := es }) hpos
  obtain ⟨t, hlast, hpos', hstatus, hheld⟩ := exists_rxLast b (receive bs { s with events := es })
  obtain ⟨⟨hl1, hl2, hl3, hl4⟩, hl5, hl6, hl7⟩ := rxLast_frame hlast
  refine ⟨t, ?_, hpos', ⟨hl1.trans htx1, hl2.trans htx2, hl3.trans htx3, hl4.trans htx4⟩,
    ⟨hl5.trans henv1, hl6.trans henv2, hl7.trans henv3⟩, hstatus.trans hv, fun f hf => hheld f ?_ ?_⟩
  · rw [List.length_append, List.length_singleton, runSteps_packet hq he, hlast]
  · rw [hv, hf]; rfl
  · exact heldFrame_receive hpos hf

/-! ### What can be read after a packet -/

/-- While the status is `OK`, place `k` of `RX_PAY` reads as byte `k` of the frame held, and as no value past it
(R15). -/
theorem readRxPay_of_heldFrame {t : State} {f : Frame} (hok : t.rxStatus = .ok) (h : heldFrame t = some f) (k : Nat) :
    readRxPay t k = if hk : k < f.pay.length then .ok f.pay[k] else .error (.noValue (.rxPay k)) := by
  have hlen := heldFrame_len h
  obtain ⟨pay, hpay, rfl⟩ := Option.map_eq_some_iff.mp h
  obtain ⟨-, hread⟩ := (Memory.readRange_eq_some_iff _ _ _ _).mp hpay
  dsimp only at hlen ⊢
  rw [readRxPay, ← hlen]
  split_ifs with h1 h2 h2
  · have := hread k h2
    rw [Nat.zero_add] at this
    rw [this]
  · exact absurd h1.2 h2
  · exact absurd ⟨hok, h2⟩ h1
  · rfl

/-- While the status is `OK`, the typed message shown is the frame's (R68, R78). -/
theorem viewMessage_of_heldFrame {t : State} {f : Frame} (hok : t.rxStatus = .ok) (h : heldFrame t = some f) :
    viewMessage t = unpackKind (classify f.id f.len.toNat) f.id f.pay := by
  obtain ⟨-, -, -, hpay, hkind⟩ := readings_of_heldFrame hok h
  have hid : t.rxId = f.id := by obtain ⟨-, -, rfl⟩ := Option.map_eq_some_iff.mp h; rfl
  cases hc : classify f.id f.len.toNat with
  | none => simp only [viewMessage, hkind, hc, unpackKind]
  | generic => simp only [viewMessage, hkind, hc, unpackKind, hpay, hid]
  | entry e =>
    simp only [viewMessage, viewEntry, hkind, hc, unpackKind, hpay, if_true]
    cases unpackEntry e f.pay <;> rfl

/-- The hello view is a function of `RX_KIND` and of place 0 (R93). -/
theorem viewHello_congr {s t : State} (hkind : rxKind s = rxKind t) (hread : readRxPay s 0 = readRxPay t 0) :
    viewHello s = viewHello t := by
  rw [viewHello, viewHello, hkind, hread]

/-- Nothing but the status can be read while it is not `OK` (R15, R78). -/
theorem sameReadings_of_not_ok {s t : State} (hst : s.rxStatus = t.rxStatus) (hno : t.rxStatus ≠ .ok) :
    Claims.SameReadings s t := by
  have hno' : s.rxStatus ≠ .ok := hst ▸ hno
  have hs : rxKind s = .none := if_neg hno'
  have ht : rxKind t = .none := if_neg hno
  have hread : ∀ k, readRxPay s k = readRxPay t k := fun k =>
    (readRxPay_eq_error fun hc => hno' hc.1).trans (readRxPay_eq_error fun hc => hno hc.1).symm
  refine ⟨hst, hs.trans ht.symm, ?_, ?_, ?_, ?_, hread, ?_, viewHello_congr (hs.trans ht.symm) (hread 0)⟩
  · rw [readRxSrc, readRxSrc, if_neg hno', if_neg hno]
  · rw [readRxId, readRxId, if_neg hno', if_neg hno]
  · rw [readRxLen, readRxLen, if_neg hno', if_neg hno]
  · rw [readPayload, readPayload, if_neg hno', if_neg hno]
  · rw [viewMessage, viewMessage, hs, ht]

/-- While the status is `OK`, every reading is the held frame's. -/
theorem sameReadings_of_heldFrame {s t : State} {f : Frame} (hs : s.rxStatus = .ok) (ht : t.rxStatus = .ok)
    (hfs : heldFrame s = some f) (hft : heldFrame t = some f) : Claims.SameReadings s t := by
  obtain ⟨hsrc, hid, hlen, hpay, hkind⟩ := readings_of_heldFrame hs hfs
  obtain ⟨hsrc', hid', hlen', hpay', hkind'⟩ := readings_of_heldFrame ht hft
  have hread : ∀ k, readRxPay s k = readRxPay t k := fun k =>
    (readRxPay_of_heldFrame hs hfs k).trans (readRxPay_of_heldFrame ht hft k).symm
  exact ⟨hs.trans ht.symm, hkind.trans hkind'.symm, hsrc.trans hsrc'.symm, hid.trans hid'.symm,
    hlen.trans hlen'.symm, hpay.trans hpay'.symm, hread,
    (viewMessage_of_heldFrame hs hfs).trans (viewMessage_of_heldFrame ht hft).symm,
    viewHello_congr (hkind.trans hkind'.symm) (hread 0)⟩

end Sys2Proof.Machine
end

section
/-! PROOFS. The statements about `FRAME.PARSE` and its sequencer (spec/41_frame_parse.md). -/

namespace Sys2Proof.Proofs

open Sys2Proof Sys2Proof.Machine Sys2Proof.Claims

/-- Settles O38: the parser's result is the status, and an accepted frame is held. -/
theorem receivingAPacketComputesFrameParse : Obligations.ReceivingAPacketComputesFrameParse := by
  intro bs s es hbs hq hpos he
  obtain ⟨t, hrun, hpos', htx, ⟨hev, hheld, hout⟩, hstatus, hframe⟩ := exists_runSteps_packet hbs hq hpos he
  refine ⟨t, hrun, hpos', htx, hev, hheld, hout, fun f hf => ?_, ?_, ?_, ?_, ?_⟩
  · have hok : t.rxStatus = .ok := by rw [hstatus, hf]; rfl
    obtain ⟨hsrc, hid, hlen, hpay, -⟩ := readings_of_heldFrame hok (hframe f hf)
    exact ⟨hok, hsrc, hid, hlen, hpay, fun k hk => by rw [readRxPay_of_heldFrame hok (hframe f hf), dif_pos hk]⟩
  all_goals
    intro hf
    rw [hstatus, hf]
    rfl

/-- Settles O39: all bytes but the last leave the instruction's frame in the registers, which its meaning writes. -/
theorem deliveredEncodingRunsItsInstruction : Obligations.DeliveredEncodingRunsItsInstruction := by
  intro i s es hwf hq hpos hcanon he
  obtain ⟨hle, -⟩ := payload_fits hwf
  have hrun := runSteps_packet hq he
  have htake : i.payload.take Config.maxPayload = i.payload := List.take_of_length_le hle
  rw [receive_frame (s := { s with events := es }) i.source i.id hpos hle,
    rxLast_eq _ (Memory.wf_writeFrom 0 i.payload hcanon), rxVerdict_frameReceived i.source i.id hle] at hrun
  rw [encode, frameBytes, List.length_append, List.length_singleton, hrun, exec_eq, rxAccept, htake]
  rfl

/-- Settles O40: the parser's result decides the status, and an accepted packet's frame every other reading. -/
theorem receptionForgetsThePast : Obligations.ReceptionForgetsThePast := by
  intro bs s1 s2 es1 es2 hbs hq1 hq2 hpos1 hpos2 he1 he2
  obtain ⟨t1, hrun1, -, -, -, hst1, hframe1⟩ := exists_runSteps_packet hbs hq1 hpos1 he1
  obtain ⟨t2, hrun2, -, -, -, hst2, hframe2⟩ := exists_runSteps_packet hbs hq2 hpos2 he2
  refine ⟨t1, t2, hrun1, hrun2, ?_⟩
  by_cases hok : parseStatus (frameParse bs) = .ok
  · obtain ⟨f, hf⟩ := parseStatus_eq_ok_iff.mp hok
    exact sameReadings_of_heldFrame (hst1.trans hok) (hst2.trans hok) (hframe1 f hf) (hframe2 f hf)
  · exact sameReadings_of_not_ok (hst1.trans hst2.symm) (hst2 ▸ hok)

/-- Settles O2: on the parts of a packet the four tests are the parser's branches. -/
theorem frameParseRunsTheFourTestsInOrder : Obligations.FrameParseRunsTheFourTestsInOrder := by
  intro bs
  refine ⟨frameParse_of_length_lt, ?_⟩
  by_cases hlong : 6 ≤ bs.length
  · rw [← crcOfPacket_eq, ← List.getLast?_eq_getElem?]
    obtain ⟨b0, b1, src, id, len, body, t, rfl⟩ := packet_parts hlong
    rw [crcOfPacket_parts, List.getLast?_concat, frameParse_parts]
    have hcrc : some t = some (sum8 ([src, id, len] ++ body)) ↔ ¬ sum8 ([src, id, len] ++ body) ≠ t := by
      rw [Option.some_inj, not_not, eq_comm]
    simp only [ne_eq (some t), ne_eq (Option.map _ _), parts_header_iff, hcrc, parts_length_iff]
    refine ⟨fun _ h2 => if_pos (not_not.mp h2), fun _ h2 h3 => ?_, fun _ h2 h3 h4 => ?_, fun _ h2 h3 h4 => ?_⟩
    · rw [if_neg h2, if_pos (not_not.mp h3)]
    · rw [if_neg h2, if_neg h3, if_pos (not_not.mp h4)]
    · rw [if_neg h2, if_neg h3, if_neg h4]
      exact ⟨_, rfl, by simp⟩
  · exact ⟨fun h => absurd h hlong, fun h => absurd h hlong, fun h => absurd h hlong, fun h => absurd h hlong⟩

/-- Settles O8: a packet's byte 4 tells its length, so none that shares it has another length. -/
theorem shortenedOrExtendedFrameIsRejected : Obligations.ShortenedOrExtendedFrameIsRejected := by
  intro bs f hf
  have hwf := (exists_frameParse_iff bs).mp ⟨f, hf⟩
  simp only [exists_frameParse_error_iff]
  refine ⟨fun n hn hcut => ?_, fun tail htail hext => ?_⟩
  · have hlong : 6 ≤ n := by have := hcut.1; rw [List.length_take] at this; omega
    have hlen := length_eq_of_wellFormedPacket hwf hcut (List.getElem?_take_of_lt (by omega))
    rw [List.length_take] at hlen; omega
  · have hlong : 6 ≤ bs.length := hwf.1
    have hlen := length_eq_of_wellFormedPacket hwf hext (List.getElem?_append_left (by omega))
    rw [List.length_append] at hlen
    exact htail (List.length_eq_zero_iff.mp (by omega))

/-- Settles O34: the meaning writes back the frame that is held. -/
theorem receptionOfTheHeldFrameIsEndOfPacket : Obligations.ReceptionOfTheHeldFrameIsEndOfPacket := by
  intro s f i hwf hf hi
  obtain ⟨hsrc, hid, hpay⟩ := decodeFrame_fields hi
  rw [exec_eq, hsrc, hid, hpay, rxAccept_of_heldFrame hwf hf]; rfl

/-- Settles O36, register by register. -/
theorem byteInsideAPacketUpdatesTheRegisters : Obligations.ByteInsideAPacketUpdatesTheRegisters := by
  intro s b es hq he
  obtain ⟨htx, hev, hheld, hout⟩ := rxMore_frame b { s with events := es }
  refine ⟨_, step_of_events hq he, htx, hev, hheld, hout, posSucc_toNat s.rxPos, ?_⟩
  rw [rxMore_eq]
  refine ⟨rfl, ?_, ?_, rfl, rfl, rfl, fun k => ?_⟩
  · dsimp only
    split_ifs <;> simp
  · dsimp only
    split_ifs <;> simp [Config.hdr0, Config.hdr1]
  · dsimp only
    by_cases hplace : 5 ≤ s.rxPos.toNat ∧ s.rxPos.toNat ≤ 259
    · rw [if_pos hplace, Memory.read_write]
      simp [hplace]
    · rw [if_neg hplace, if_neg fun hc => hplace ⟨hc.1, hc.2.1⟩]

/-- Settles O37: in a canonical state the final byte writes its verdict alone, and the TX unit's events write no RX
register. -/
theorem lastByteWritesStatusAndPositionOnly : Obligations.LastByteWritesStatusAndPositionOnly := by
  refine ⟨fun s b es hq hwf he => ?_, fun e s t hrx hreset h => ?_⟩
  · rw [step_of_events hq he]
    change rxLast b _ = _
    rw [rxLast_eq b (s := { s with events := es }) hwf, rxVerdict_eq]; rfl
  · obtain ⟨hkeep, -⟩ := resultsLastUntilTheUnitsNextInput e s t h
    exact (hkeep hrx hreset).1

/-- Settles O43: no frame has more than 261 bytes, and only a packet of fewer than 6 is short. -/
theorem overlongPacketIsRejected : Obligations.OverlongPacketIsRejected := by
  intro bs s es hlong hq hpos he
  obtain ⟨t, hrun, -, -, -, hstatus, -⟩ := exists_runSteps_packet (List.ne_nil_of_length_pos (by omega)) hq hpos he
  have hreject : ¬ WellFormedPacket bs := fun hwf => by
    have := length_le_of_wellFormedPacket hwf; omega
  obtain ⟨e, he⟩ := (exists_frameParse_error_iff bs).mpr hreject
  refine ⟨t, hrun, ?_⟩
  rw [hstatus, he]
  cases e with
  | short => exact absurd he (frameParse_ne_short (by omega))
  | header => exact .inl rfl
  | checksum => exact .inr (.inl rfl)
  | length => exact .inr (.inr rfl)

/-- Settles O35: with the tests passed and the frame decoded, the end of a packet is that instruction. -/
theorem stepRunsTheDecodedInstruction : Obligations.StepRunsTheDecodedInstruction := by
  intro s b es f i hq he hv hf hi
  have hv' : rxVerdict b { s with events := es } = .ok := hv
  have hdec : (heldFrame { s with events := es }).bind decodeFrame = some i := Option.bind_eq_some_iff.mpr ⟨f, hf, hi⟩
  rw [step_of_events hq he]
  simp only [runEvent, rxLast, hv', hdec, if_true]

end Sys2Proof.Proofs
end

section
/-! PROOFS. What `FRAME.BUILD` writes (R59, R60), and the ranges of a buffer read in parts. -/

namespace Sys2Proof

/-- `FRAME.BUILD` gives a packet exactly for a payload of at most 255 bytes (R59, R60). -/
theorem frameBuild_eq_ok_iff {src id : Byte} {pay bs : List Byte} :
    frameBuild src id pay = .ok bs ↔ pay.length ≤ 255 ∧ bs = frameBytes src id pay := by
  unfold frameBuild
  split_ifs with h
  · exact iff_of_false nofun fun hc => absurd h (Nat.not_lt.mpr hc.1)
  · rw [Except.ok.injEq, eq_comm]
    exact (and_iff_right (Nat.not_lt.mp h)).symm

/-- `FRAME.BUILD` refuses every longer payload (R60). -/
theorem frameBuild_eq_error {src id : Byte} {pay : List Byte} (h : 255 < pay.length) :
    frameBuild src id pay = .error .invalidArgument := if_pos h

/-- The payload stands from index 5 on (R59). -/
theorem getElem?_frameBytes_payload (src id : Byte) {pay : List Byte} {k : Nat} (h : k < pay.length) :
    (frameBytes src id pay)[5 + k]? = pay[k]? := by
  rw [frameBytes, List.append_assoc, List.getElem?_append_right (by simp)]
  simp [List.getElem?_append_left h]

/-- The trailer stands behind the payload (R59). -/
theorem getElem?_frameBytes_trailer (src id : Byte) (pay : List Byte) :
    (frameBytes src id pay)[5 + pay.length]? = some (crcOfFrame src id pay) := by
  rw [show 5 + pay.length = (frameBytes src id pay).length - 1 by rw [length_frameBytes]; omega,
    ← List.getLast?_eq_getElem?, frameBytes, List.getLast?_concat]

namespace Machine.Memory

/-- A range that has a value begins with its first byte. -/
theorem readRange_succ_eq_some_iff {m : Memory} {a n : Nat} {b : Byte} {bs : List Byte} :
    m.readRange a (n + 1) = some (b :: bs) ↔ m.read a = some b ∧ m.readRange (a + 1) n = some bs := by
  rw [readRange]
  cases m.read a <;> cases m.readRange (a + 1) n <;> simp

/-- What is left of a range from one of its places on. -/
theorem readRange_drop {m : Memory} {n k : Nat} {bs : List Byte} (h : m.readRange 0 n = some bs) :
    m.readRange k (n - k) = some (bs.drop k) := by
  obtain ⟨rfl, hread⟩ := (readRange_eq_some_iff _ _ _ _).mp h
  refine (readRange_eq_some_iff _ _ _ _).mpr ⟨List.length_drop, fun j hj => ?_⟩
  rw [List.length_drop] at hj
  rw [List.getElem_drop, ← hread (k + j) (by omega), Nat.zero_add]

end Machine.Memory
end Sys2Proof
end

section
/-! PROOFS. A typed build is the encoding of an instruction (R70, R71): the one with the record's fields, the source
byte `SRC_OF` and zero in the reserved bytes. So what it emits is read back as the same record (R75). -/

namespace Sys2Proof

/-- The operand checks of a typed build (R71). -/
def Record.fits : Record → Bool
  | .steerCmd speed status steerAngle crossTrackError =>
      fitsU16 speed && fitsU8 status && fitsI16 steerAngle && fitsI16 crossTrackError
  | .steerSet raw => fitsArray 12 raw
  | .steerFb actualAngle switchStates statusFlags => fitsI16 actualAngle && fitsU8 switchStates && fitsU8 statusFlags
  | .implData relayLo relayHi tramline sections =>
      fitsArray 8 relayLo && fitsArray 8 relayHi && fitsU8 tramline && fitsSections sections
  | .implCfg raw => fitsArray 6 raw
  | .implFb raw => fitsArray 2 raw
  | .imuCfg raw => fitsArray 4 raw
  | .imuData roll pitch heading yawRate calibrated =>
      fitsI16 roll && fitsI16 pitch && fitsU16 heading && fitsI16 yawRate && fitsU8 calibrated
  | .helloHost raw => fitsArray 3 raw
  | .scanReq raw => fitsArray 2 raw
  | .helloSteer version | .helloImpl version | .helloImu version => fitsU8 version

/-- The instruction a typed build encodes: each field's bit pattern, the entry's source (R77), reserved bytes zero
(R35). -/
def Record.instr : Record → Instr
  | .steerCmd speed status steerAngle crossTrackError =>
      .steerCmd Entry.steerCmd.source (BitVec.ofInt 16 speed) (BitVec.ofInt 8 status) (BitVec.ofInt 16 steerAngle)
        (BitVec.ofInt 16 crossTrackError) (putReserved 2)
  | .steerSet raw => .steerSet Entry.steerSet.source (putArray raw)
  | .steerFb actualAngle switchStates statusFlags =>
      .steerFb Entry.steerFb.source (BitVec.ofInt 16 actualAngle) (BitVec.ofInt 8 switchStates)
        (BitVec.ofInt 8 statusFlags) (putReserved 4)
  | .implData relayLo relayHi tramline sections =>
      .implData Entry.implData.source (putArray relayLo) (putArray relayHi) (BitVec.ofInt 8 tramline)
        (putArray sections)
  | .implCfg raw => .implCfg Entry.implCfg.source (putArray raw)
  | .implFb raw => .implFb Entry.implFb.source (putArray raw)
  | .imuCfg raw => .imuCfg Entry.imuCfg.source (putArray raw)
  | .imuData roll pitch heading yawRate calibrated =>
      .imuData Entry.imuData.source (BitVec.ofInt 16 roll) (BitVec.ofInt 16 pitch) (BitVec.ofInt 16 heading)
        (BitVec.ofInt 16 yawRate) (BitVec.ofInt 8 calibrated) (putReserved 7)
  | .helloHost raw => .helloHost Entry.helloHost.source (putArray raw)
  | .scanReq raw => .scanReq Entry.scanReq.source (putArray raw)
  | .helloSteer version => .helloSteer Entry.helloSteer.source (BitVec.ofInt 8 version) (putReserved 2)
  | .helloImpl version => .helloImpl Entry.helloImpl.source (BitVec.ofInt 8 version) (putReserved 2)
  | .helloImu version => .helloImu Entry.helloImu.source (BitVec.ofInt 8 version) (putReserved 2)

theorem Record.source_instr (r : Record) : r.instr.source = r.entry.source := by
  cases r <;> rfl

theorem Record.id_instr (r : Record) : r.instr.id = r.entry.id := by
  cases r <;> rfl

/-- The packed payload of a typed build is the instruction's, if the checks pass (R70). -/
theorem payloadOf_eq (r : Record) :
    payloadOf r = if r.fits then .ok r.instr.payload else .error .invalidArgument := by
  cases r <;> rfl

/-! ### The operands that pass the checks -/

@[simp] theorem length_putArray (vs : List Int) : (putArray vs).length = vs.length := List.length_map _

/-- Array operands that fit come back from their bytes. -/
theorem map_zext8_putArray {vs : List Int} (h : vs.all fitsU8 = true) : (putArray vs).map zext8 = vs := by
  rw [putArray, List.map_map]
  exact (List.map_congr_left fun v hv => zext8_ofInt (List.all_eq_true.mp h v hv)).trans (List.map_id vs)

/-- An array operand has its fixed length and fits element by element (R71). -/
theorem fitsArray_iff {k : Nat} {vs : List Int} :
    fitsArray k vs = true ↔ vs.length = k ∧ vs.all fitsU8 = true := by
  rw [fitsArray, Bool.and_eq_true, beq_iff_eq]

/-- The sections fit by their number and element by element (R71). -/
theorem fitsSections_iff {vs : List Int} :
    fitsSections vs = true ↔ vs.length ≤ 238 ∧ vs.all fitsU8 = true := by
  rw [fitsSections, Bool.and_eq_true, decide_eq_true_iff]

/-- Operands that pass the checks make a well-formed instruction. -/
theorem Record.wellFormed_instr {r : Record} (h : r.fits = true) : r.instr.wellFormed = true := by
  cases r
  all_goals
    simp only [fits, Bool.and_eq_true, fitsArray_iff, fitsSections_iff] at h
    simp [instr, Instr.wellFormed, putReserved, h]

/-- And that instruction's message is the record. -/
theorem Record.message_instr {r : Record} (h : r.fits = true) : r.instr.message = .record r := by
  cases r
  all_goals
    simp only [fits, Bool.and_eq_true, fitsArray_iff, fitsSections_iff] at h
    simp [instr, Instr.message, map_zext8_putArray, zext8_ofInt, zext16_ofInt, sext16_ofInt, h]

/-- A typed build encodes the instruction, or a check fails (R70, R71). -/
theorem msgBuild_eq (r : Record) :
    msgBuild r = if r.fits then .ok (encode r.instr) else .error .invalidArgument := by
  rw [msgBuild, payloadOf_eq]
  cases h : r.fits with
  | false => rfl
  | true =>
    rw [← r.source_instr, ← r.id_instr]
    exact frameBuild_eq_ok_iff.mpr ⟨(payload_fits (Record.wellFormed_instr h)).1, rfl⟩

/-- A typed build gives a packet exactly when the checks pass. -/
theorem msgBuild_eq_ok_iff {r : Record} {bs : List Byte} :
    msgBuild r = .ok bs ↔ r.fits = true ∧ bs = encode r.instr := by
  rw [msgBuild_eq]
  split_ifs with h <;> simp [h, eq_comm]

/-! ### The parse of an encoding -/

/-- An array field that is the whole payload (R76). -/
theorem getArray_of_length {pay : List Byte} {n : Nat} (h : pay.length = n) :
    getArray pay 0 n = pay.map zext8 := by
  rw [getArray, List.drop_zero, List.take_of_length_le h.le]

/-- The parse line of a well-formed instruction's entry reads its operands (R73, R79 to R91). -/
theorem unpackEntry_payload {i : Instr} {e : Entry} (hwf : i.wellFormed = true) (hk : i.kind = .entry e) :
    (unpackEntry e i.payload).map .record = some i.message := by
  cases i <;> cases hk
  case steerSet | implCfg | implFb | imuCfg | helloHost | scanReq =>
    have hread := getArray_of_length (eq_of_beq hwf)
    simp [unpackEntry, unpackSteerSet, unpackImplCfg, unpackImplFb, unpackImuCfg, unpackHelloHost, unpackScanReq,
      Instr.payload, Instr.message, hread]
  case helloSteer | helloImpl | helloImu => rfl
  case steerCmd => simp [unpackEntry, unpackSteerCmd, getU16, getU8, getI16, Instr.payload, packSteerCmd, Instr.message]
  case steerFb => simp [unpackEntry, unpackSteerFb, getU8, getI16, Instr.payload, packSteerFb, Instr.message]
  case imuData => simp [unpackEntry, unpackImuData, getU16, getU8, getI16, Instr.payload, packImuData, Instr.message]
  case implData src lo hi tramline sections =>
    simp only [Instr.wellFormed, Bool.and_eq_true, beq_iff_eq] at hwf
    obtain ⟨⟨hlo, hhi⟩, -⟩ := hwf
    simp [unpackEntry, unpackImplData, getArray, getU8, Instr.payload, packImplData, Instr.message, hlo, hhi,
      List.getElem?_append, List.drop_append, List.drop_eq_nil_of_le]
    omega

/-- `FRAME.PARSE` of a well-formed instruction's encoding (R25, R47). -/
theorem frameParse_encode {i : Instr} (hwf : i.wellFormed = true) : frameParse (encode i) =
    .ok { src := i.source, id := i.id, len := BitVec.ofNat 8 i.payload.length, pay := i.payload } :=
  frameParse_frameBytes i.source i.id (payload_fits hwf).1

/-- `MSG.PARSE` of a well-formed instruction's encoding is the instruction's message (R68). -/
theorem msgParse_encode {i : Instr} (hwf : i.wellFormed = true) : msgParse (encode i) = some i.message := by
  obtain ⟨hle, hclass⟩ := payload_fits hwf
  rw [encode, msgParse_frameBytes i.source i.id hle, hclass]
  cases hk : i.kind with
  | none => cases i <;> cases hk
  | generic => cases i <;> cases hk; rfl
  | entry e => exact unpackEntry_payload hwf hk

end Sys2Proof
end

section
/-! PROOFS. Which build requests the port can present (R63, R72): every typed one whose checks pass. -/

namespace Sys2Proof.Machine

/-- The signed 32-bit port (R72). -/
theorem fitsPort_iff {v : Int} : fitsPort v = true ↔ -2147483648 ≤ v ∧ v ≤ 2147483647 := by
  have hport : (2 ^ (Config.opw - 1) : Int) = 2147483648 := by decide
  rw [fitsPort, decide_eq_true_iff, hport]
  omega

theorem fitsPort_of_fitsU8 {v : Int} (h : fitsU8 v = true) : fitsPort v = true := by
  simp only [fitsU8, decide_eq_true_iff] at h
  exact fitsPort_iff.mpr (by omega)

theorem fitsPort_of_fitsU16 {v : Int} (h : fitsU16 v = true) : fitsPort v = true := by
  simp only [fitsU16, decide_eq_true_iff] at h
  exact fitsPort_iff.mpr (by omega)

theorem fitsPort_of_fitsI16 {v : Int} (h : fitsI16 v = true) : fitsPort v = true := by
  simp only [fitsI16, decide_eq_true_iff] at h
  exact fitsPort_iff.mpr (by omega)

theorem all_fitsPort_of_all_fitsU8 {vs : List Int} (h : vs.all fitsU8 = true) : vs.all fitsPort = true :=
  List.all_eq_true.mpr fun v hv => fitsPort_of_fitsU8 (List.all_eq_true.mp h v hv)

/-- Operands that pass the checks lie inside the port's range (R71, R72). -/
theorem presentable_of_fits {r : Record} (h : r.fits = true) : presentable (.typed r) = true := by
  cases r
  all_goals
    simp only [Record.fits, Bool.and_eq_true, fitsArray_iff, fitsSections_iff] at h
    simp [-List.all_eq_true, presentable, operandsOf, fitsPort_of_fitsU8, fitsPort_of_fitsU16, fitsPort_of_fitsI16,
      all_fitsPort_of_all_fitsU8, h]

end Sys2Proof.Machine
end

section
/-! PROOFS. The TX unit (R63 to R66): what a build request stores, and the emission that hands it out. -/

namespace Sys2Proof.Machine

open Sys2Proof.Claims

/-! ### The build -/

/-- The state in which a built packet has been stored (R63). -/
def txStored (bs : List Byte) (s : State) : State :=
  { s with txPkt := s.txPkt.writeFrom 0 bs, txN := BitVec.ofNat 9 bs.length, txPos := 0, txStatus := .busy }

/-- A build request stores the packet it asks for, or it is refused (R63, R70). -/
theorem txStart_requestPacket_cases (r : TxRequest) (s : State) :
    (∃ bs, requestPacket r = .ok bs ∧ txStart r s = txStored bs s) ∨
    (requestPacket r = .error .invalidArgument ∧ txStart r s = txRefuse s) := by
  have hframe : ∀ src id pay,
      (∃ bs, frameBuild src id pay = .ok bs ∧ txBuildFrame src id pay s = txStored bs s) ∨
      (frameBuild src id pay = .error .invalidArgument ∧ txBuildFrame src id pay s = txRefuse s) := by
    intro src id pay
    rcases txBuildFrame_cases src id pay s with ⟨hlong, h⟩ | ⟨hle, h⟩
    · exact .inr ⟨frameBuild_eq_error hlong, h⟩
    · exact .inl ⟨_, frameBuild_eq_ok_iff.mpr ⟨hle, rfl⟩, h⟩
  cases r with
  | frame src id pay => exact hframe src id pay
  | typed rec =>
    simp only [requestPacket, msgBuild, txStart]
    cases payloadOf rec with
    | ok pay => exact hframe _ _ pay
    | error e => cases e; exact .inr ⟨rfl, rfl⟩

/-- A request that asks for a packet stores it. -/
theorem txStart_of_ok {r : TxRequest} {bs : List Byte} (h : requestPacket r = .ok bs) (s : State) :
    txStart r s = txStored bs s := by
  rcases txStart_requestPacket_cases r s with ⟨bs', hbs, ht⟩ | ⟨he, -⟩
  · obtain rfl : bs' = bs := Except.ok.inj (hbs.symm.trans h)
    exact ht
  · cases he.symm.trans h

/-- A request whose build fails is refused. -/
theorem txStart_of_error {r : TxRequest} (h : requestPacket r = .error .invalidArgument) (s : State) :
    txStart r s = txRefuse s := by
  rcases txStart_requestPacket_cases r s with ⟨bs, hbs, -⟩ | ⟨-, ht⟩
  · cases hbs.symm.trans h
  · exact ht

/-- The packet a request asks for is well-formed (R61). -/
theorem wellFormedPacket_of_requestPacket {r : TxRequest} {bs : List Byte} (h : requestPacket r = .ok bs) :
    WellFormedPacket bs := by
  cases r with
  | frame src id pay =>
    obtain ⟨hle, rfl⟩ := frameBuild_eq_ok_iff.mp h
    exact wellFormedPacket_frameBytes src id hle
  | typed rec =>
    obtain ⟨hfits, rfl⟩ := msgBuild_eq_ok_iff.mp h
    exact wellFormedPacket_frameBytes _ _ (payload_fits (Record.wellFormed_instr hfits)).1

/-- `TX_N` has room for the length of a well-formed packet (R10, R27). -/
theorem toNat_txN_of_wellFormedPacket {bs : List Byte} (h : WellFormedPacket bs) :
    (BitVec.ofNat 9 bs.length).toNat = bs.length := by
  have := length_le_of_wellFormedPacket h
  rw [BitVec.toNat_ofNat]
  exact Nat.mod_eq_of_lt (by omega)

/-- The stored packet reads back byte by byte (R15, R63). -/
theorem readTxPkt_txStored {bs : List Byte} (hwf : WellFormedPacket bs) (s : State) {k : Nat} (hk : k < bs.length) :
    readTxPkt (txStored bs s) k = .ok bs[k] := by
  have hread : (txStored bs s).txPkt.read k = some bs[k] := by
    rw [txStored, Memory.read_writeFrom, dif_pos (by omega)]; rfl
  have hlt : k < (txStored bs s).txN.toNat := by
    rw [txStored, toNat_txN_of_wellFormedPacket hwf]; exact hk
  have hhas : txHasPacket (txStored bs s) = true := rfl
  simp only [readTxPkt, hhas, hlt, hread, and_self, if_true]

/-- R63 and R70 register by register. -/
theorem requestTakesEffect_txStart (r : TxRequest) (s : State) : RequestTakesEffect r s (txStart r s) := by
  refine ⟨(txStart_frame r s).1, fun bs hbs => ?_, fun hr => ?_⟩
  · have hwf := wellFormedPacket_of_requestPacket hbs
    rw [txStart_of_ok hbs]
    refine ⟨rfl, rfl, rfl, fun k hk => readTxPkt_txStored hwf s hk, fun k hk => ?_⟩
    rw [txStored, Memory.read_writeFrom, dif_neg (by omega)]
  · rw [txStart_of_error hr]
    exact ⟨rfl, rfl, rfl, rfl⟩

/-- With nothing held, a presentable request at a TX unit that is not `BUSY` starts (R63). -/
theorem step_txBuild {r : TxRequest} {s : State} {es : List Event} (hheld : s.held = []) (hfree : s.txStatus ≠ .busy)
    (hp : presentable r = true) (he : s.events = .txBuild r :: es) :
    step s = .next (txStart r { s with events := es }) := by
  rw [step_of_events (.inl hheld) he]
  exact runEvent_txBuild_of_not_busy hp hfree

/-! ### The emission -/

/-- The queue `fs` names `n` moves of the TX unit before `es`, or it is empty, and the unit moves by itself (R7, log
entry 1). -/
def EmitMoves (n : Nat) (es fs : List Event) : Prop := fs = List.replicate n .txEmit ++ es ∨ fs = [] ∧ es = []

/-- With no such move left, what comes next is `es`. -/
theorem emitMoves_zero {es fs : List Event} (h : EmitMoves 0 es fs) : fs = es := by
  rcases h with h | ⟨h, rfl⟩ <;> exact h

/-- Such a move hands out the byte at `tx_pos`, and the others are still to come (R64). -/
theorem step_of_emitMoves {n : Nat} {es : List Event} {s : State} {b : Byte} (hbusy : s.txStatus = .busy)
    (hlt : s.txPos.toNat < s.txN.toNat) (hb : s.txPkt.read s.txPos.toNat = some b)
    (h : EmitMoves (n + 1) es s.events) : ∃ fs, EmitMoves n es fs ∧ step s = .next
      { s with events := fs, out := s.out ++ [{ byte := b, last := decide (s.txPos.toNat = s.txN.toNat - 1) }],
               txPos := s.txPos + 1, txStatus := if s.txPos.toNat = s.txN.toNat - 1 then .done else .busy } := by
  have hemit := fun fs => txEmit_next (s := { s with events := fs }) hbusy hlt hb
  simp only [decide_eq_true_iff] at hemit
  rcases h with he | ⟨he, rfl⟩
  · exact ⟨_, .inl rfl, (step_of_events (.inr hbusy) he).trans (hemit _)⟩
  · refine ⟨[], .inr ⟨rfl, rfl⟩, ?_⟩
    rw [step_emits hbusy he, ← hemit [], ← he]

theorem emission_cons_cons (b c : Byte) (bs : List Byte) :
    emission (b :: c :: bs) = { byte := b, last := false } :: emission (c :: bs) := by
  simp [emission]

@[simp] theorem length_emission (bs : List Byte) : (emission bs).length = bs.length := by
  cases bs using List.reverseRecOn <;> simp [emission]

/-- The bytes left are handed out one by one, the last one ends in `DONE`, and nothing else changes (R64, R65). -/
theorem runSteps_emission {b : Byte} {bs : List Byte} {s : State} {es : List Event} (hbusy : s.txStatus = .busy)
    (hn : s.txN.toNat = s.txPos.toNat + (bs.length + 1))
    (hpkt : s.txPkt.readRange s.txPos.toNat (bs.length + 1) = some (b :: bs))
    (he : EmitMoves (bs.length + 1) es s.events) :
    runSteps (bs.length + 1) s =
      .next { s with events := es, out := s.out ++ emission (b :: bs), txPos := s.txN, txStatus := .done } := by
  induction bs generalizing b s with
  | nil =>
    obtain ⟨hb, -⟩ := Memory.readRange_succ_eq_some_iff.mp hpkt
    obtain ⟨fs, hfs, hstep⟩ := step_of_emitMoves hbusy (by omega) hb he
    have hlast : s.txPos.toNat = s.txN.toNat - 1 := by simp at hn; omega
    have hend : s.txPos + 1 = s.txN := by bv_omega
    obtain rfl := emitMoves_zero hfs
    rw [List.length_nil, runSteps_one, hstep, hend]
    simp only [hlast, decide_true, if_true]; rfl
  | cons c bs ih =>
    obtain ⟨hb, hrest⟩ := Memory.readRange_succ_eq_some_iff.mp hpkt
    obtain ⟨fs, hfs, hstep⟩ := step_of_emitMoves hbusy (by omega) hb he
    rw [List.length_cons] at hn hrest
    have hnot : ¬ s.txPos.toNat = s.txN.toNat - 1 := by omega
    have hnext : (s.txPos + 1).toNat = s.txPos.toNat + 1 := by bv_omega
    simp only [hnot, decide_false, if_false] at hstep
    rw [List.length_cons, runSteps_succ _ hstep,
      ih rfl (by simp only [hnext]; omega) (by simp only [hnext]; exact hrest) hfs, emission_cons_cons]
    simp

end Sys2Proof.Machine
end

section
/-! PROOFS. How far an emission has to go (R65, R66): a build and its emission as one run, the bytes left in any state
of the invariant, and the end of every hold. -/

namespace Sys2Proof.Machine

open Sys2Proof.Claims

/-- A run goes on from where its first part ended. -/
theorem runSteps_add_of_next {m : Nat} {s t : State} (n : Nat) (h : runSteps m s = .next t) :
    runSteps (m + n) s = runSteps n t := by
  rw [runSteps_add, h]

/-- The state in which the packet stored last has been handed out (R65). -/
def txHandedOut (bs : List Byte) (s : State) : State :=
  { txStored bs s with out := s.out ++ emission bs, txPos := BitVec.ofNat 9 bs.length, txStatus := .done }

/-- A build with its emission hands out the packet the request asks for (R65). -/
theorem runSteps_build_emission {r : TxRequest} {bs : List Byte} {s : State} {es : List Event} (hheld : s.held = [])
    (hfree : s.txStatus ≠ .busy) (hp : presentable r = true) (hbs : requestPacket r = .ok bs)
    (he : s.events = .txBuild r :: (List.replicate bs.length .txEmit ++ es)) :
    runSteps (1 + bs.length) s = .next (txHandedOut bs { s with events := es }) := by
  have hwf := wellFormedPacket_of_requestPacket hbs
  have hn := toNat_txN_of_wellFormedPacket hwf
  rw [Nat.add_comm, runSteps_succ _ (step_txBuild hheld hfree hp he), txStart_of_ok hbs]
  cases bs with
  | nil => exact absurd hwf.1 (by decide)
  | cons b bs =>
    exact runSteps_emission (s := txStored (b :: bs) { s with events := _ }) rfl (hn.trans (Nat.zero_add _).symm)
      (Memory.readRange_writeFrom s.txPkt 0 (b :: bs)) (.inl rfl)

/-- In every `BUSY` state of the invariant the bytes left can be handed out, at most 261 (R64, R66). -/
theorem TxInv.exists_runSteps_emission {s : State} {es : List Event} (h : TxInv s) (hbusy : s.txStatus = .busy)
    (he : EmitMoves (s.txN.toNat - s.txPos.toNat) es s.events) :
    s.txN.toNat - s.txPos.toNat ≤ 261 ∧ ∃ bs, bs.length = s.txN.toNat - s.txPos.toNat ∧
      runSteps (s.txN.toNat - s.txPos.toNat) s =
        .next { s with events := es, out := s.out ++ emission bs, txPos := s.txN, txStatus := .done } := by
  have hhas : txHasPacket s = true := (txHasPacket_iff s).mpr (.inl hbusy)
  have hle := h.txN_le hhas
  have hlt := h.busy hbusy
  obtain ⟨pkt, hpkt, -⟩ := h.packet hhas
  have hleft := Memory.readRange_drop (k := s.txPos.toNat) hpkt
  obtain ⟨hlen, -⟩ := (Memory.readRange_eq_some_iff _ _ _ _).mp hleft
  refine ⟨by omega, pkt.drop s.txPos.toNat, hlen, ?_⟩
  cases hbs : pkt.drop s.txPos.toNat with
  | nil => rw [hbs, List.length_nil] at hlen; omega
  | cons b bs =>
    rw [hbs] at hlen hleft
    rw [← hlen] at hleft he ⊢
    exact runSteps_emission hbusy (by rw [← List.length_cons (a := b)]; omega) hleft he

/-! ### The message shown (R78) -/

/-- With a parsed packet's frame held, the typed message shown is the packet's. -/
theorem viewMessage_eq_msgParse {t : State} {f : Frame} {bs : List Byte} (hok : t.rxStatus = .ok)
    (hheld : heldFrame t = some f) (hf : frameParse bs = .ok f) : viewMessage t = msgParse bs := by
  rw [viewMessage_of_heldFrame hok hheld, msgParse, hf]

/-! ### Every hold ends (R66) -/

/-- While `BUSY` every event steps, a presentable build request by joining the held ones (R7, R66). -/
theorem exists_runEvent_of_busy {e : Event} {s : State} (h : BlockInv s) (hbusy : s.txStatus = .busy)
    (hp : ∀ q, e = .txBuild q → presentable q = true) :
    ∃ t more, runEvent e s = .next t ∧ BlockInv t ∧ t.events = s.events ∧ t.held = s.held ++ more := by
  have hsteps : ∃ t more, runEvent e s = .next t ∧ t.events = s.events ∧ t.held = s.held ++ more := by
    cases e with
    | rxByte b last =>
      obtain ⟨t, ht⟩ := exists_runEvent_rxByte b last s
      have henv : SameEnv s t := by
        cases last with
        | false => cases ht; exact (rxMore_frame b s).2
        | true => exact (rxLast_frame ht).2
      obtain ⟨hev, hheld, -⟩ := henv
      exact ⟨t, [], ht, hev, by rw [hheld, List.append_nil]⟩
    | txBuild q => exact ⟨_, [q], runEvent_txBuild_of_busy (hp q rfl) hbusy, rfl, rfl⟩
    | txEmit =>
      obtain ⟨t, ht⟩ := h.tx.exists_txEmit hbusy
      obtain ⟨-, -, o, rfl⟩ := txEmit_cases ht
      exact ⟨_, [], ht, rfl, (List.append_nil _).symm⟩
    | reset => exact ⟨_, [], rfl, rfl, (List.append_nil _).symm⟩
  obtain ⟨t, more, ht, hkeep⟩ := hsteps
  exact ⟨t, more, ht, h.runEvent ht, hkeep⟩

/-- Whatever the queue holds, after at most its events and 261 more steps the TX unit is not `BUSY`, with every request
held still held (R66). -/
theorem BlockInv.exists_runSteps_not_busy {s : State} {fs : List Event} (h : BlockInv s) (hbusy : s.txStatus = .busy)
    (he : s.events = fs) (hp : ∀ q, Event.txBuild q ∈ fs → presentable q = true) :
    ∃ n t more, n ≤ fs.length + 261 ∧ runSteps n s = .next t ∧ t.txStatus ≠ .busy ∧ t.held = s.held ++ more := by
  induction fs generalizing s with
  | nil =>
    obtain ⟨hle, bs, -, hrun⟩ := h.tx.exists_runSteps_emission hbusy (.inr ⟨he, rfl⟩)
    exact ⟨_, _, [], by simpa using hle, hrun, nofun, (List.append_nil _).symm⟩
  | cons e fs ih =>
    have h' : BlockInv { s with events := fs } := h.withEnv fs s.held s.out
    obtain ⟨t, more, ht, hinv, hev, hheld⟩ :=
      exists_runEvent_of_busy h' hbusy fun q hq => hp q (hq ▸ List.mem_cons_self)
    have hstep := (step_of_events (.inr hbusy) he).trans ht
    by_cases hfree : t.txStatus = .busy
    · obtain ⟨n, u, more', hn, hrun, hdone, hheld'⟩ := ih hinv hfree hev fun q hq => hp q (List.mem_cons_of_mem e hq)
      refine ⟨n + 1, u, more ++ more', by rw [List.length_cons]; omega, ?_, hdone, ?_⟩
      · rw [runSteps_succ _ hstep, hrun]
      · rw [hheld', hheld, List.append_assoc]
    · exact ⟨1, t, more, by omega, by rw [runSteps_one, hstep], hfree, hheld⟩

end Sys2Proof.Machine
end

section
/-! PROOFS. The statements about the builds and the TX unit (spec/42_frame_build.md). -/

namespace Sys2Proof.Proofs

open Sys2Proof Sys2Proof.Machine Sys2Proof.Claims

/-- Settles O7: the parser reads back a built packet's fields, and accepts no packet but its own fields' build. -/
theorem frameParseAndBuildAreInverse : Obligations.FrameParseAndBuildAreInverse := by
  refine ⟨fun src id pay hle => ?_, fun bs f hf => ?_⟩
  · exact ⟨_, frameBuild_eq_ok_iff.mpr ⟨hle, rfl⟩, frameParse_frameBytes src id hle⟩
  · obtain ⟨hle, -, hbs⟩ := frameParse_eq_ok_iff.mp hf
    exact frameBuild_eq_ok_iff.mpr ⟨hle, hbs⟩

/-- Settles O49: the emission of the packet that the build stored, or the refusal alone. -/
theorem buildAndEmitHandOutTheFrame : Obligations.BuildAndEmitHandOutTheFrame := by
  intro src id pay s es hheld hfree
  have hpresentable : pay.length ≤ 65535 → presentable (.frame src id pay) = true := decide_eq_true
  refine ⟨fun bs hbs he => ?_, fun hr hle he => ?_⟩
  · obtain ⟨hle, -⟩ := frameBuild_eq_ok_iff.mp hbs
    exact ⟨_, runSteps_build_emission hheld hfree (hpresentable (by omega)) hbs he, rfl, rfl, rfl, hheld,
      ⟨rfl, rfl, rfl, rfl, rfl, rfl, rfl, rfl⟩, rfl⟩
  · have hstep := step_txBuild hheld hfree (hpresentable hle) he
    rw [txStart_of_error (r := .frame src id pay) hr] at hstep
    exact ⟨_, hstep, rfl, rfl, rfl⟩

/-- Settles O50: what the emission hands out is the encoding of the record's instruction, and a delivered packet shows
its own frame and message. -/
theorem builtMessageLoopsBack : Obligations.BuiltMessageLoopsBack := by
  intro r bs s es hbs hheld hfree hpos he
  obtain ⟨hfits, henc⟩ := msgBuild_eq_ok_iff.mp hbs
  have hwf := Record.wellFormed_instr hfits
  have hparse := frameParse_encode hwf
  rw [← henc] at hparse
  have hne : bs ≠ [] := by rintro rfl; cases hparse
  have hsent := runSteps_build_emission hheld hfree (presentable_of_fits hfits) hbs he
  obtain ⟨t, hrun, -, ⟨hdone, -⟩, ⟨hev, -, hout⟩, hstatus, hframe⟩ :=
    exists_runSteps_packet (s := txHandedOut bs { s with events := packetEvents bs ++ es }) hne (.inl hheld) hpos rfl
  have hok : t.rxStatus = .ok := by rw [hstatus, hparse]; rfl
  have hf := hframe _ hparse
  obtain ⟨hsrc, hid, -⟩ := readings_of_heldFrame hok hf
  refine ⟨t, (runSteps_add_of_next _ hsent).trans hrun, hout, hdone, hok, r.source_instr ▸ hsrc, r.id_instr ▸ hid, ?_,
    hev⟩
  rw [viewMessage_eq_msgParse hok hf hparse, henc, msgParse_encode hwf, Record.message_instr hfits]

/-- Settles O6, byte by byte. -/
theorem frameBuildWritesTheFrameLayout : Obligations.FrameBuildWritesTheFrameLayout := by
  intro src id pay
  refine ⟨frameBuild_eq_error, fun hle => ?_⟩
  refine ⟨_, frameBuild_eq_ok_iff.mpr ⟨hle, rfl⟩, length_frameBytes src id pay, rfl, rfl, rfl, rfl, ?_, fun k hk => ?_,
    ?_, wellFormedPacket_frameBytes src id hle⟩
  · exact congrArg some (toNat_lengthByte hle)
  · exact getElem?_frameBytes_payload src id hk
  · exact getElem?_frameBytes_trailer src id pay

/-- Settles O44: the three ranges of the payload's length. -/
theorem buildRequestStoresThePacketOrRefuses : Obligations.BuildRequestStoresThePacketOrRefuses := by
  intro src id pay s es hheld hfree he
  have hstep : pay.length ≤ 65535 → step s = .next (txStart (.frame src id pay) { s with events := es }) :=
    fun hle => step_txBuild hheld hfree (decide_eq_true hle) he
  refine ⟨fun hlong hle => ?_, fun hlong => ?_, fun hle => ?_⟩
  · rw [hstep hle, txStart_of_error (r := .frame src id pay) (frameBuild_eq_error hlong)]; rfl
  · have hno : presentable (.frame src id pay) = false := decide_eq_false (Nat.not_le.mpr hlong)
    rw [step_of_events (.inl hheld) he]
    simp only [runEvent, hno, Bool.false_eq_true, if_false]
  · obtain ⟨hrx, hbuilt, -⟩ := requestTakesEffect_txStart (.frame src id pay) { s with events := es }
    obtain ⟨hbusy, hpos, hn, hpkt, hrest⟩ := hbuilt _ (frameBuild_eq_ok_iff.mpr ⟨hle, rfl⟩)
    obtain ⟨-, hev, hheld', hout⟩ := txStart_frame (.frame src id pay) { s with events := es }
    rw [length_frameBytes] at hn hrest
    exact ⟨_, hstep (by omega), hbusy, hpos, hn, hpkt, hrest, hrx, hev, hheld', hout⟩

/-- Settles O48: the emission of the bytes left, and event by event the end of a hold. -/
theorem emissionEndsWithin261Events : Obligations.EmissionEndsWithin261Events := by
  refine ⟨fun s es h hbusy he => ?_, fun s r rest h hbusy hheld hp => ?_⟩
  · obtain ⟨hle, bs, hlen, hrun⟩ := h.tx.exists_runSteps_emission hbusy he
    refine ⟨hle, _, hrun, rfl, rfl, rfl, rfl, rfl, ⟨rfl, rfl, rfl, rfl, rfl, rfl, rfl, rfl⟩, ?_⟩
    simp [hlen]
  · obtain ⟨n, t, more, hn, hrun, hfree, hheld'⟩ := h.exists_runSteps_not_busy hbusy rfl hp
    rw [hheld, List.cons_append] at hheld'
    exact ⟨n, t, more, hn, hrun, hfree, hheld', step_held hfree hheld'⟩

/-- Settles O46: one move of an emission, and the stop of a `TxEmit` that is not enabled. -/
theorem emitHandsOutOneByte : Obligations.EmitHandsOutOneByte := by
  intro s es he
  refine ⟨fun b hbusy hlt hb => ?_, fun hfree hheld hev => ?_⟩
  · obtain ⟨fs, hfs, hstep⟩ := step_of_emitMoves (n := 0) (es := es) hbusy hlt hb he
    obtain rfl := emitMoves_zero hfs
    exact ⟨_, hstep, rfl, rfl, rfl, rfl, rfl, ⟨rfl, rfl, rfl, rfl, rfl, rfl, rfl, rfl⟩, rfl, rfl⟩
  · rw [step_of_events (.inl hheld) hev]
    exact if_neg hfree

/-- Settles O47: the hold, and then the request's effect register by register. -/
theorem buildRequestIsHeldWhileBusy : Obligations.BuildRequestIsHeldWhileBusy := by
  refine ⟨fun r s es hbusy hp he => ?_, fun r rest s hfree hheld => ?_⟩
  · obtain ⟨hrx, htx⟩ := sameRegs_withEnv s es (s.held ++ [r]) s.out
    refine ⟨_, (step_of_events (.inr hbusy) he).trans (runEvent_txBuild_of_busy hp hbusy), hrx, htx, rfl, rfl, rfl⟩
  · obtain ⟨-, henv⟩ := txStart_frame r { s with held := rest }
    exact ⟨_, step_held hfree hheld, rfl, requestTakesEffect_txStart r { s with held := rest }, henv⟩

end Sys2Proof.Proofs
end

section
/-! PROOFS. `MSG.PARSE` reads the decoded instruction (R68, R69): the parse line of an entry gives the message of the
operands at the entry's offsets, and a length that fits has them all. -/

namespace Sys2Proof

/-- A length that fits has every operand of its entry (R21, R31). -/
theorem exists_decodeEntry {e : Entry} (src : Byte) {pay : List Byte} (hfits : e.lengthRule.fits pay.length = true) :
    ∃ i, decodeEntry e src pay = some i ∧ i.kind = .entry e := by
  have h1 : ∀ a < pay.length, ∃ b, memRead1 pay a = some b := fun a ha => ⟨_, List.getElem?_eq_getElem ha⟩
  have h2 : ∀ a, a + 1 < pay.length → ∃ w, memRead2 pay a = some w := fun a ha => by
    rw [memRead2_eq, List.getElem?_eq_getElem (Nat.lt_of_succ_lt ha), List.getElem?_eq_getElem ha]; exact ⟨_, rfl⟩
  cases e
  all_goals simp only [Entry.lengthRule, LengthRule.fits, beq_iff_eq, decide_eq_true_eq] at hfits
  case steerSet | implCfg | implFb | imuCfg | helloHost | scanReq => exact ⟨_, rfl, rfl⟩
  case helloSteer | helloImpl | helloImu =>
    obtain ⟨version, h0⟩ := h1 0 (by omega)
    exact ⟨_, by simp only [decodeEntry, h0]; rfl, rfl⟩
  case steerCmd =>
    obtain ⟨speed, hspeed⟩ := h2 0 (by omega)
    obtain ⟨status, hstatus⟩ := h1 2 (by omega)
    obtain ⟨angle, hangle⟩ := h2 3 (by omega)
    obtain ⟨xte, hxte⟩ := h2 5 (by omega)
    exact ⟨_, by simp only [decodeEntry, hspeed, hstatus, hangle, hxte]; rfl, rfl⟩
  case steerFb =>
    obtain ⟨angle, hangle⟩ := h2 0 (by omega)
    obtain ⟨switches, hswitches⟩ := h1 2 (by omega)
    obtain ⟨flags, hflags⟩ := h1 3 (by omega)
    exact ⟨_, by simp only [decodeEntry, hangle, hswitches, hflags]; rfl, rfl⟩
  case implData =>
    obtain ⟨tramline, htramline⟩ := h1 16 (by omega)
    exact ⟨_, by simp only [decodeEntry, htramline]; rfl, rfl⟩
  case imuData =>
    obtain ⟨roll, hroll⟩ := h2 0 (by omega)
    obtain ⟨pitch, hpitch⟩ := h2 2 (by omega)
    obtain ⟨heading, hheading⟩ := h2 4 (by omega)
    obtain ⟨yaw, hyaw⟩ := h2 6 (by omega)
    obtain ⟨calibrated, hcalibrated⟩ := h1 8 (by omega)
    exact ⟨_, by simp only [decodeEntry, hroll, hpitch, hheading, hyaw, hcalibrated]; rfl, rfl⟩

/-- The message of an entry's instruction is a record of the entry. -/
theorem exists_message_eq_record {i : Instr} {e : Entry} (h : i.kind = .entry e) :
    ∃ r, i.message = .record r ∧ r.entry = e := by
  cases i <;> cases h <;> exact ⟨_, rfl, rfl⟩

/-- The parse line of an entry is the message of the operands decoded at its offsets, if the length fits (R73). -/
theorem unpackEntry_eq_decodeEntry {e : Entry} (src : Byte) {pay : List Byte}
    (hfits : e.lengthRule.fits pay.length = true) (hle : pay.length ≤ 255) :
    (unpackEntry e pay).map .record = (decodeEntry e src pay).map Instr.message := by
  obtain ⟨i, hi, hk⟩ := exists_decodeEntry src hfits
  obtain ⟨-, -, rfl⟩ := decodeEntry_fields hi
  rw [hi, unpackEntry_payload (decodeEntry_wellFormed hi hfits hle) hk, Option.map_some]

/-- The parse line of an entry gives a record of the entry, if the length fits. -/
theorem exists_unpackEntry {e : Entry} {pay : List Byte} (hfits : e.lengthRule.fits pay.length = true)
    (hle : pay.length ≤ 255) : ∃ r, unpackEntry e pay = some r ∧ r.entry = e := by
  obtain ⟨i, hi, hk⟩ := exists_decodeEntry 0 hfits
  obtain ⟨r, hr, he⟩ := exists_message_eq_record hk
  have hread := unpackEntry_eq_decodeEntry 0 hfits hle
  rw [hi, Option.map_some, hr] at hread
  obtain ⟨r', hr', hrec⟩ := Option.map_eq_some_iff.mp hread
  cases hrec
  exact ⟨r, hr', he⟩

/-- The typed message of a frame is the message of the instruction it decodes to (R68). -/
theorem unpackKind_eq_decodeFrame {f : Frame} (hlen : f.pay.length = f.len.toNat) :
    unpackKind (classify f.id f.len.toNat) f.id f.pay = (decodeFrame f).map Instr.message := by
  have hle : f.pay.length ≤ 255 := by have := f.len.isLt; omega
  cases hk : classify f.id f.len.toNat with
  | none => simp only [decodeFrame, hk]; rfl
  | generic => simp only [decodeFrame, hk]; rfl
  | entry e =>
    obtain ⟨-, hfits⟩ := classify_eq_entry_iff.mp hk
    simp only [decodeFrame, hk]
    exact unpackEntry_eq_decodeEntry f.src (hlen ▸ hfits) hle

/-- The length byte of a parsed frame counts its payload (R47). -/
theorem length_pay_of_frameParse {bs : List Byte} {f : Frame} (h : frameParse bs = .ok f) :
    f.pay.length = f.len.toNat := by
  obtain ⟨hle, hlen, -⟩ := frameParse_eq_ok_iff.mp h
  rw [hlen, toNat_lengthByte hle]

/-- `MSG.PARSE` is the message of the decoded instruction, and nothing where the decoder refuses (R68). -/
theorem msgParse_eq_decode (bs : List Byte) : msgParse bs = (decode bs).toOption.map Instr.message := by
  cases hf : frameParse bs with
  | error e => simp only [msgParse, decode, hf]; rfl
  | ok f =>
    simp only [msgParse, decode, hf]
    rw [unpackKind_eq_decodeFrame (length_pay_of_frameParse hf)]
    cases decodeFrame f <;> rfl

/-- `MSG.PARSE.<kind>` keeps the records of its entry (R69). -/
theorem msgParseEntry_eq_some_iff {e : Entry} {bs : List Byte} {r : Record} :
    msgParseEntry e bs = some r ↔ msgParse bs = some (.record r) ∧ r.entry = e := by
  unfold msgParseEntry
  split
  · next r' h =>
    rw [h]
    split_ifs with he
    · simp only [Option.some.injEq, TypedMessage.record.injEq]
      exact ⟨fun hr => ⟨hr, hr ▸ he⟩, fun hr => hr.1⟩
    · simp only [Option.some.injEq, TypedMessage.record.injEq, false_iff]
      exact fun hr => he (hr.1 ▸ hr.2)
  · next h => simp [h]
  · next h => simp [h]

end Sys2Proof
end

section
/-! PROOFS. When a typed build gives back the packet that was parsed (R75): the operands read always pass the checks, so
only the source and the reserved bytes can differ. -/

namespace Sys2Proof

/-! ### The integers of a field and back -/

theorem fitsU16_zext16 (h : Half) : fitsU16 (zext16 h) = true := by
  have := h.isLt
  rw [fitsU16, zext16, decide_eq_true_iff]; omega

theorem fitsI16_sext16 (h : Half) : fitsI16 (sext16 h) = true := by
  have := h.isLt
  rw [fitsI16, sext16, decide_eq_true_iff]; split <;> omega

@[simp] theorem ofInt_zext16 (h : Half) : BitVec.ofInt 16 (zext16 h) = h := by
  simp [zext16]

@[simp] theorem ofInt_sext16 (h : Half) : BitVec.ofInt 16 (sext16 h) = h := by
  rw [sext16_eq_toInt, BitVec.ofInt_toInt]

theorem all_fitsU8_map_zext8 (bs : List Byte) : (bs.map zext8).all fitsU8 = true := by
  simp [fitsU8_zext8]

@[simp] theorem putArray_map_zext8 (bs : List Byte) : putArray (bs.map zext8) = bs := by
  simp [putArray, Function.comp_def]

/-! ### The reserved bytes of an instruction -/

/-- Reserved bytes are what a build writes exactly when each is zero (R35). -/
theorem eq_putReserved_iff {k : Nat} {bs : List Byte} (h : bs.length = k) :
    bs = putReserved k ↔ ∀ b ∈ bs, b = 0 := by
  rw [putReserved, List.eq_replicate_iff, and_iff_right h]

/-- The reserved bytes of a frame (R35). -/
def Instr.reserved : Instr → List Byte
  | .steerCmd _ _ _ _ _ reserved => reserved
  | .steerFb _ _ _ _ reserved => reserved
  | .imuData _ _ _ _ _ _ reserved => reserved
  | .helloSteer _ _ reserved => reserved
  | .helloImpl _ _ reserved => reserved
  | .helloImu _ _ reserved => reserved
  | .steerSet .. | .implData .. | .implCfg .. | .implFb .. | .imuCfg .. | .helloHost .. | .scanReq ..
  | .generic .. => []

/-- The reserved bytes stand last in the payload, at the entry's reserved indices of the packet (R40). -/
theorem payload_reserved {i : Instr} {e : Entry} (hwf : i.wellFormed = true) (hk : i.kind = .entry e) :
    ∃ fields, i.payload = fields ++ i.reserved ∧
      e.reservedIndices = List.range' (5 + fields.length) i.reserved.length := by
  cases i <;> cases hk
  case steerSet | implData | implCfg | implFb | imuCfg | helloHost | scanReq =>
    exact ⟨_, (List.append_nil _).symm, rfl⟩
  case helloSteer | helloImpl | helloImu =>
    exact ⟨[_], rfl, by rw [Instr.reserved, eq_of_beq hwf]; rfl⟩
  case steerCmd | steerFb | imuData =>
    exact ⟨_, rfl, by rw [Instr.reserved, eq_of_beq hwf]; rfl⟩

/-- Byte 2 of an encoding is the source byte (R26). -/
theorem getElem?_encode_source (i : Instr) : (encode i)[2]? = some i.source := rfl

/-- The reserved indices of an encoding hold zero exactly when its reserved bytes are zero. -/
theorem encode_reserved_eq_zero_iff {i : Instr} {e : Entry} (hwf : i.wellFormed = true) (hk : i.kind = .entry e) :
    (∀ k ∈ e.reservedIndices, (encode i)[k]? = some 0) ↔ ∀ b ∈ i.reserved, b = 0 := by
  obtain ⟨fields, hpay, hindices⟩ := payload_reserved hwf hk
  have hread : ∀ k (hlt : k < i.reserved.length), (encode i)[5 + fields.length + k]? = some i.reserved[k] := by
    intro k hlt
    have hlen : fields.length + k < i.payload.length := by rw [hpay, List.length_append]; omega
    rw [encode, Nat.add_assoc, getElem?_frameBytes_payload _ _ hlen, hpay, List.getElem?_append_right (by omega),
      Nat.add_sub_cancel_left, List.getElem?_eq_getElem]
  rw [hindices, List.forall_mem_iff_getElem (l := i.reserved)]
  constructor
  · intro h k hlt
    exact Option.some.inj ((hread k hlt).symm.trans (h _ (List.mem_range'_1.mpr (by omega))))
  · intro h k hk
    obtain ⟨hle, hlt⟩ := List.mem_range'_1.mp hk
    obtain ⟨j, rfl⟩ := Nat.exists_eq_add_of_le hle
    replace hlt : j < i.reserved.length := by omega
    rw [hread j hlt, h j hlt]

/-! ### The record read and the instruction built -/

/-- A record is the message of its entry's instructions only. -/
theorem kind_of_message {i : Instr} {r : Record} (h : i.message = .record r) : i.kind = .entry r.entry := by
  cases i <;> cases h <;> rfl

/-- The integers read from a well-formed instruction pass the checks of the build (R71). -/
theorem fits_of_message {i : Instr} {r : Record} (hwf : i.wellFormed = true) (h : i.message = .record r) :
    r.fits = true := by
  cases i <;> cases h
  all_goals
    simp only [Instr.wellFormed, Bool.and_eq_true, beq_iff_eq, decide_eq_true_eq] at hwf
    simp [-List.all_map, -List.all_eq_true, Record.fits, fitsArray_iff, fitsSections_iff, fitsU16_zext16,
      fitsI16_sext16, fitsU8_zext8, all_fitsU8_map_zext8, hwf]

/-- A well-formed instruction is the one its message builds exactly when its source is `SRC_OF` and its reserved bytes
are zero. -/
theorem eq_instr_iff {i : Instr} {r : Record} (hwf : i.wellFormed = true) (h : i.message = .record r) :
    i = r.instr ↔ i.source = r.entry.source ∧ ∀ b ∈ i.reserved, b = 0 := by
  cases i <;> cases h
  all_goals
    simp only [Instr.wellFormed, beq_iff_eq] at hwf
    simp [Record.instr, Instr.source, Instr.reserved, Record.entry, eq_putReserved_iff, hwf]

/-- The encodings of well-formed instructions are distinct. -/
theorem encode_inj {i j : Instr} (hi : i.wellFormed = true) (hj : j.wellFormed = true) (h : encode i = encode j) :
    i = j := by
  have hdec := Proofs.decodeOfEncodeIsTheInstruction i hi
  rw [h, Proofs.decodeOfEncodeIsTheInstruction j hj] at hdec
  exact (Except.ok.inj hdec).symm

/-- A typed build of the record a packet's instruction shows is that packet exactly when the source is `SRC_OF` and the
reserved bytes are zero (R75). -/
theorem msgBuild_eq_encode_iff {i : Instr} {r : Record} (hwf : i.wellFormed = true) (h : i.message = .record r) :
    msgBuild r = .ok (encode i) ↔ i.source = r.entry.source ∧ ∀ b ∈ i.reserved, b = 0 := by
  have hfits := fits_of_message hwf h
  rw [msgBuild_eq_ok_iff, ← eq_instr_iff hwf h]
  exact ⟨fun hb => encode_inj hwf (Record.wellFormed_instr hfits) hb.2, fun hi => ⟨hfits, congrArg encode hi⟩⟩

/-- A packet with a typed message is the encoding of a well-formed instruction with that message (R68). -/
theorem exists_encode_of_msgParse {bs : List Byte} {m : TypedMessage} (h : msgParse bs = some m) :
    ∃ i, i.wellFormed = true ∧ encode i = bs ∧ i.message = m := by
  rw [msgParse_eq_decode] at h
  obtain ⟨i, hi, hm⟩ := Option.map_eq_some_iff.mp h
  have hdec : decode bs = .ok i := by
    cases hd : decode bs with
    | error e => rw [hd] at hi; cases hi
    | ok j => rw [hd] at hi; exact congrArg _ (Option.some.inj hi)
  obtain ⟨hwf, henc⟩ := Proofs.encodeOfDecodeIsThePacket bs i hdec
  exact ⟨i, hwf, henc, hm⟩

end Sys2Proof
end

section
/-! PROOFS. What the typed layer shows of a held frame (R78, R93), and the reception of a whole instruction (R51,
R54). -/

namespace Sys2Proof

/-- A frame's payload has a record of the entry it classifies as (R31, R32). -/
theorem exists_unpackEntry_of_classify {f : Frame} {e : Entry} (hlen : f.pay.length = f.len.toNat)
    (hclass : classify f.id f.len.toNat = .entry e) : ∃ r, unpackEntry e f.pay = some r ∧ r.entry = e := by
  have hbyte := f.len.isLt
  exact exists_unpackEntry (hlen ▸ (classify_eq_entry_iff.mp hclass).2) (by omega)

/-- `HELLO.PARSE` of a record of entry `e`: the module the entry names, and the payload's first byte (R93). -/
theorem helloParse_of_record {bs pay : List Byte} {e : Entry} {r : Record} (h : msgParse bs = some (.record r))
    (hr : unpackEntry e pay = some r) (he : r.entry = e) :
    helloParse bs = e.helloModule.bind fun m => pay[0]?.map fun b => (m, zext8 b) := by
  rw [helloParse, h]
  cases r <;> cases he
  case helloSteer | helloImpl | helloImu =>
    simp only [unpackEntry, Record.entry, unpackHelloSteer, unpackHelloImpl, unpackHelloImu, getU8, memRead1_eq,
      Option.map_eq_some_iff] at hr
    obtain ⟨_, ⟨b, hb, rfl⟩, hversion⟩ := hr
    cases hversion
    rw [hb]; rfl
  all_goals rfl

/-- What `MSG.PARSE` gives for a parsed frame, kind by kind (R68). -/
theorem msgParse_cases {bs : List Byte} {f : Frame} (hf : frameParse bs = .ok f) :
    (classify f.id f.len.toNat = .none ∧ msgParse bs = none) ∨
    (classify f.id f.len.toNat = .generic ∧ msgParse bs = some (.generic f.id f.pay)) ∨
    ∃ e r, classify f.id f.len.toNat = .entry e ∧ unpackEntry e f.pay = some r ∧ r.entry = e ∧
      msgParse bs = some (.record r) := by
  have hparse : msgParse bs = unpackKind (classify f.id f.len.toNat) f.id f.pay := by simp only [msgParse, hf]
  cases hclass : classify f.id f.len.toNat with
  | none => exact .inl ⟨rfl, by rw [hparse, hclass, unpackKind]⟩
  | generic => exact .inr (.inl ⟨rfl, by rw [hparse, hclass, unpackKind]⟩)
  | entry e =>
    obtain ⟨r, hr, he⟩ := exists_unpackEntry_of_classify (length_pay_of_frameParse hf) hclass
    exact .inr (.inr ⟨e, r, rfl, hr, he, by rw [hparse, hclass, unpackKind, hr, Option.map_some]⟩)

namespace Machine

/-- The hello view of a held frame of entry `e` (R93). -/
theorem viewHello_of_heldFrame {t : State} {f : Frame} {e : Entry} (hok : t.rxStatus = .ok)
    (h : heldFrame t = some f) (hclass : classify f.id f.len.toNat = .entry e) :
    viewHello t = e.helloModule.bind fun m => f.pay[0]?.map fun b => (m, zext8 b) := by
  obtain ⟨-, -, -, -, hkind⟩ := readings_of_heldFrame hok h
  have hread := readRxPay_of_heldFrame hok h 0
  cases hpay : f.pay with
  | nil =>
    have hempty : readRxPay t 0 = .error (.noValue (.rxPay 0)) := by simpa [hpay] using hread
    simp only [viewHello, hkind, hclass, hempty]
    cases e.helloModule <;> rfl
  | cons b pay =>
    have hfirst : readRxPay t 0 = .ok b := by simpa [hpay] using hread
    simp only [viewHello, hkind, hclass, hfirst]
    cases e.helloModule <;> rfl

/-- The typed view of a held frame of its entry has the value that the parse line gives (R78). -/
theorem viewEntry_of_heldFrame {t : State} {f : Frame} {e : Entry} {r : Record} (hok : t.rxStatus = .ok)
    (h : heldFrame t = some f) (hclass : classify f.id f.len.toNat = .entry e) (hr : unpackEntry e f.pay = some r) :
    viewEntry e t = .ok r := by
  obtain ⟨-, -, -, hpay, hkind⟩ := readings_of_heldFrame hok h
  simp only [viewEntry, hkind, hclass, hpay, hr, if_true]

/-- While `RX_KIND` is another kind, the typed view faults (W3). -/
theorem viewEntry_of_ne {t : State} {e : Entry} (h : rxKind t ≠ .entry e) : viewEntry e t = .error (.otherKind e) :=
  if_neg h

/-- While the status is not `OK` there is no kind, no message and no hello (R78, R93). -/
theorem views_of_not_ok {t : State} (h : t.rxStatus ≠ .ok) :
    rxKind t = .none ∧ viewMessage t = none ∧ viewHello t = none := by
  have hkind : rxKind t = .none := if_neg h
  exact ⟨hkind, by rw [viewMessage, hkind], by rw [viewHello, hkind]⟩

section
variable {t : State} {f : Frame} {bs : List Byte} (hok : t.rxStatus = .ok) (hheld : heldFrame t = some f)
  (hf : frameParse bs = .ok f)
include hok hheld hf

/-- With a parsed packet's frame held, `RX_KIND` is `NONE` exactly if the packet is no message (R78). -/
theorem rxKind_eq_none_iff_msgParse : rxKind t = .none ↔ msgParse bs = none := by
  obtain ⟨-, -, -, -, hkind⟩ := readings_of_heldFrame hok hheld
  rcases msgParse_cases hf with ⟨hclass, hparse⟩ | ⟨hclass, hparse⟩ | ⟨e, r, hclass, -, -, hparse⟩ <;>
    simp [hkind, hclass, hparse]

/-- With a parsed packet's frame held, the hello view is the packet's (R93). -/
theorem viewHello_eq_helloParse : viewHello t = helloParse bs := by
  obtain ⟨-, -, -, -, hkind⟩ := readings_of_heldFrame hok hheld
  rcases msgParse_cases hf with ⟨hclass, hparse⟩ | ⟨hclass, hparse⟩ | ⟨e, r, hclass, hr, he, hparse⟩
  · rw [viewHello, hkind, hclass, helloParse, hparse]
  · rw [viewHello, hkind, hclass, helloParse, hparse]
  · rw [viewHello_of_heldFrame hok hheld hclass, helloParse_of_record hparse hr he]

/-- With a parsed packet's frame held, a typed view has the value that `MSG.PARSE.<kind>` gives (R78). -/
theorem viewEntry_eq_ok_iff_msgParseEntry (e : Entry) (r : Record) :
    viewEntry e t = .ok r ↔ msgParseEntry e bs = some r := by
  obtain ⟨-, -, -, -, hkind⟩ := readings_of_heldFrame hok hheld
  rw [msgParseEntry_eq_some_iff]
  by_cases hclass : classify f.id f.len.toNat = .entry e
  · obtain ⟨r', hr', he'⟩ := exists_unpackEntry_of_classify (heldFrame_len hheld) hclass
    have hparse : msgParse bs = some (.record r') := by
      simp only [msgParse, hf, hclass, unpackKind, hr', Option.map_some]
    rw [viewEntry_of_heldFrame hok hheld hclass hr', hparse, Except.ok.injEq, Option.some.injEq,
      TypedMessage.record.injEq]
    exact ⟨fun h => ⟨h, h ▸ he'⟩, fun h => h.1⟩
  · rw [viewEntry_of_ne (hkind ▸ hclass)]
    refine iff_of_false nofun ?_
    rintro ⟨hparse, rfl⟩
    rcases msgParse_cases hf with ⟨-, hno⟩ | ⟨-, hgen⟩ | ⟨e', r', hclass', -, he', hrec⟩
    · rw [hno] at hparse; cases hparse
    · rw [hgen] at hparse; cases hparse
    · rw [hrec] at hparse; cases hparse
      exact hclass (he' ▸ hclass')

end

/-! ### The reception of an instruction -/

/-- Receiving a well-formed instruction leaves its own frame held, so every reading is the instruction's; past its
payload and beside the RX registers nothing changes (R15, R51, R54, R78). -/
theorem receives_of_wellFormed {i : Instr} (hwf : i.wellFormed = true) (s : State) :
    Claims.Receives i.source i.id i.payload i.kind i.message s (rxAccept i.source i.id i.payload s) := by
  obtain ⟨hle, hclass⟩ := payload_fits hwf
  have hparse := frameParse_encode hwf
  have hheld := heldFrame_rxAccept (length_pay_of_frameParse hparse) s
  dsimp only at hheld
  obtain ⟨hsrc, hid, hlen, hpay, hkind⟩ := readings_of_heldFrame rfl hheld
  refine ⟨rfl, rfl, hsrc, hid, hlen, hpay, fun j hj => ?_, ?_, ?_, rfl, rfl, fun k hk => ?_, ⟨rfl, rfl, rfl, rfl⟩,
    rfl, rfl, rfl⟩
  · rw [readRxPay_of_heldFrame rfl hheld, dif_pos hj]
  · rw [hkind, toNat_lengthByte hle, hclass]
  · rw [viewMessage_eq_msgParse rfl hheld hparse, msgParse_encode hwf]
  · have hend : (i.payload.take Config.maxPayload).length ≤ k := by rw [List.length_take]; omega
    rw [rxAccept_rxPay, Memory.read_writeFrom, dif_neg (by omega)]

end Machine
end Sys2Proof
end

section
/-! PROOFS. The six entries without a layout (R76): what makes an entry opaque, and that this settles its build and its
parse. -/

namespace Sys2Proof

open Sys2Proof.Claims

/-- The source byte of an entry is the `SRC_OF` column of R77. -/
theorem tableSource_eq (e : Entry) : tableSource e = e.source := by
  cases e <;> rfl

/-- The bytes of a claim are those that the check of an array operand admits (R71). -/
theorem fitsArray_iff_allU8 {n : Nat} {raw : List Int} : fitsArray n raw = true ↔ raw.length = n ∧ allU8 raw := by
  simp only [fitsArray_iff, allU8, List.all_eq_true, fitsU8, decide_eq_true_iff]

/-- The catalog gives entry `e` no layout: its record `mk raw` holds the `n` bytes of the payload, which the build packs
and the parse line reads as they are (R76). -/
structure IsOpaque (mk : List Int → Record) (e : Entry) (n : Nat) : Prop where
  entry : ∀ raw, (mk raw).entry = e
  lengthRule : e.lengthRule = .fixed n
  payload : ∀ raw, payloadOf (mk raw) = if fitsArray n raw then .ok (putArray raw) else .error .invalidArgument
  unpack : ∀ pay, unpackEntry e pay = some (mk (getArray pay 0 n))

/-- Build and parse of an entry without a layout (R76). -/
theorem IsOpaque.opaqueEntry {mk : List Int → Record} {e : Entry} {n : Nat} (h : IsOpaque mk e n) :
    OpaqueEntry mk e.source e.id n := by
  have hn := Entry.lt_of_lengthRule_fixed h.lengthRule
  have hclass : ∀ len, classify e.id len = if len = n then .entry e else .none := fun len => by
    rw [classify_entry, h.lengthRule]
    exact if_congr beq_iff_eq rfl rfl
  refine ⟨fun raw hlen hall => ?_, fun raw hbad => ?_, fun src pay hlen => ?_, fun src pay hle hlen => ?_⟩
  · have hlen' : (putArray raw).length ≤ 255 := by rw [length_putArray]; omega
    rw [msgBuild, h.payload, if_pos (fitsArray_iff_allU8.mpr ⟨hlen, hall⟩), h.entry]
    exact frameBuild_eq_ok_iff.mpr ⟨hlen', rfl⟩
  · rw [msgBuild, h.payload, if_neg (mt fitsArray_iff_allU8.mp hbad)]
  · rw [msgParse_frameBytes _ _ (by omega), hclass, if_pos hlen, unpackKind, h.unpack, getArray_of_length hlen]
    rfl
  · rw [msgParse_frameBytes _ _ hle, hclass, if_neg hlen, unpackKind]

end Sys2Proof
end

section
/-! PROOFS. The statements about the typed layer (spec/43_typed_layer.md). -/

namespace Sys2Proof.Proofs

open Sys2Proof Sys2Proof.Machine Sys2Proof.Claims

/-- Settles O17: a build is the encoding of the record's instruction, and a parsed packet that of an instruction whose
fields pass the checks, so only its source and its reserved bytes can differ from the build. -/
theorem typedRoundTrip : Obligations.TypedRoundTrip := by
  refine ⟨fun r bs hbs => ?_, fun r bs hparse => ?_⟩
  · obtain ⟨hfits, rfl⟩ := msgBuild_eq_ok_iff.mp hbs
    have hparse : msgParse (encode r.instr) = some (.record r) := by
      rw [msgParse_encode (Record.wellFormed_instr hfits), Record.message_instr hfits]
    exact ⟨hparse, msgParseEntry_eq_some_iff.mpr ⟨hparse, rfl⟩⟩
  · obtain ⟨i, hwf, rfl, hm⟩ := exists_encode_of_msgParse hparse
    rw [msgBuild_eq_encode_iff hwf hm, getElem?_encode_source, Option.some_inj,
      encode_reserved_eq_zero_iff hwf (kind_of_message hm)]

/-- Settles O41: the parser's result decides the status, and an accepted packet's frame is held and shown. -/
theorem typedViewsComputeMsgParse : Obligations.TypedViewsComputeMsgParse := by
  intro bs s es hbs hq hpos he
  obtain ⟨t, hrun, -, -, -, hstatus, hframe⟩ := exists_runSteps_packet hbs hq hpos he
  refine ⟨t, hrun, ?_⟩
  cases hf : frameParse bs with
  | ok f =>
    have hok : t.rxStatus = .ok := by rw [hstatus, hf]; rfl
    have hheld := hframe f hf
    exact ⟨rxKind_eq_none_iff_msgParse hok hheld hf, viewMessage_eq_msgParse hok hheld hf,
      viewHello_eq_helloParse hok hheld hf, viewEntry_eq_ok_iff_msgParseEntry hok hheld hf⟩
  | error e =>
    have hno : t.rxStatus ≠ .ok := fun hok => by
      obtain ⟨f, hf'⟩ := parseStatus_eq_ok_iff.mp (hstatus.symm.trans hok)
      cases hf.symm.trans hf'
    have hparse : msgParse bs = none := by rw [msgParse, hf]
    obtain ⟨hkind, hmessage, hhello⟩ := views_of_not_ok hno
    refine ⟨iff_of_true hkind hparse, hmessage.trans hparse.symm, ?_, fun e r => ?_⟩
    · rw [hhello, helloParse, hparse]
    · rw [viewEntry_of_ne (by simp [hkind]), msgParseEntry, hparse]
      exact iff_of_false nofun nofun

/-- Settles O16: the parse is the decoded instruction's message, and the entry's parser its restriction. -/
theorem msgParseReadsTheDecodedInstruction : Obligations.MsgParseReadsTheDecodedInstruction := by
  refine ⟨fun bs i hi => ?_, fun bs e he => ?_, fun bs e r => msgParseEntry_eq_some_iff⟩
  · rw [msgParse_eq_decode, hi]; rfl
  · rw [msgParse_eq_decode, he]; rfl

/-- Settles O18: byte 2 is the source of the record's instruction, and a built frame is read by its id and payload
alone. -/
theorem sourceByteIsWrittenAndNeverTested : Obligations.SourceByteIsWrittenAndNeverTested := by
  refine ⟨fun r bs hbs => ?_, fun r pay src hpay => ?_, fun src src' id pay hle => ?_⟩
  · obtain ⟨-, rfl⟩ := msgBuild_eq_ok_iff.mp hbs
    rw [getElem?_encode_source, r.source_instr, tableSource_eq]
  · rw [payloadOf_eq] at hpay
    split_ifs at hpay with hfits
    cases hpay
    have hwf := Record.wellFormed_instr hfits
    obtain ⟨hle, -⟩ := payload_fits hwf
    refine ⟨_, frameBuild_eq_ok_iff.mpr ⟨hle, rfl⟩, ?_⟩
    rw [← Record.message_instr hfits, ← msgParse_encode hwf, encode, r.id_instr, msgParse_frameBytes _ _ hle,
      msgParse_frameBytes _ _ hle]
  · have hparse : msgParse (frameBytes src id pay) = msgParse (frameBytes src' id pay) := by
      rw [msgParse_frameBytes _ _ hle, msgParse_frameBytes _ _ hle]
    refine ⟨hparse, fun e => ?_, ?_, _, frameParse_frameBytes src id hle, rfl⟩
    · rw [msgParseEntry, msgParseEntry, hparse]
    · rw [helloParse, helloParse, hparse]

/-- Settles O23: the six entries are opaque ones. -/
theorem opaqueEntriesBuildAndParse : Obligations.OpaqueEntriesBuildAndParse :=
  ⟨IsOpaque.opaqueEntry (e := .steerSet) ⟨fun _ => rfl, rfl, fun _ => rfl, fun _ => rfl⟩,
    IsOpaque.opaqueEntry (e := .implCfg) ⟨fun _ => rfl, rfl, fun _ => rfl, fun _ => rfl⟩,
    IsOpaque.opaqueEntry (e := .implFb) ⟨fun _ => rfl, rfl, fun _ => rfl, fun _ => rfl⟩,
    IsOpaque.opaqueEntry (e := .imuCfg) ⟨fun _ => rfl, rfl, fun _ => rfl, fun _ => rfl⟩,
    IsOpaque.opaqueEntry (e := .helloHost) ⟨fun _ => rfl, rfl, fun _ => rfl, fun _ => rfl⟩,
    IsOpaque.opaqueEntry (e := .scanReq) ⟨fun _ => rfl, rfl, fun _ => rfl, fun _ => rfl⟩⟩

/-- Settles O31: each is a well-formed instruction, whose meaning is the reception of its frame. -/
theorem receptionOfOpaqueEntries : Obligations.ReceptionOfOpaqueEntries := by
  intro src raw s
  exact ⟨fun h => ⟨_, rfl, receives_of_wellFormed (i := .steerSet src raw) (beq_iff_eq.mpr h) s⟩,
    fun h => ⟨_, rfl, receives_of_wellFormed (i := .implCfg src raw) (beq_iff_eq.mpr h) s⟩,
    fun h => ⟨_, rfl, receives_of_wellFormed (i := .implFb src raw) (beq_iff_eq.mpr h) s⟩,
    fun h => ⟨_, rfl, receives_of_wellFormed (i := .imuCfg src raw) (beq_iff_eq.mpr h) s⟩,
    fun h => ⟨_, rfl, receives_of_wellFormed (i := .helloHost src raw) (beq_iff_eq.mpr h) s⟩,
    fun h => ⟨_, rfl, receives_of_wellFormed (i := .scanReq src raw) (beq_iff_eq.mpr h) s⟩⟩

/-- Settles O45: the request's effect register by register, the refusal, and the operand that no port presents. -/
theorem typedBuildRequestIsTheFrameRequest : Obligations.TypedBuildRequestIsTheFrameRequest := by
  intro r s es hheld hfree he
  have hpresent : presentable (.typed r) = true ↔ ∀ v ∈ operandsOf r, -2147483648 ≤ v ∧ v ≤ 2147483647 := by
    simp only [presentable, List.all_eq_true, fitsPort_iff]
  refine ⟨fun bs hbs => ?_, fun hr hports => ?_, fun ⟨v, hv, hout⟩ => ?_⟩
  · have hp := presentable_of_fits (msgBuild_eq_ok_iff.mp hbs).1
    obtain ⟨hrx, hbuilt, -⟩ := requestTakesEffect_txStart (.typed r) { s with events := es }
    obtain ⟨hbusy, hpos, hn, hpkt, hrest⟩ := hbuilt bs hbs
    obtain ⟨-, henv⟩ := txStart_frame (.typed r) { s with events := es }
    exact ⟨_, step_txBuild hheld hfree hp he, hbusy, hpos, hn, hpkt, hrest, hrx, henv⟩
  · rw [step_txBuild hheld hfree (hpresent.mpr hports) he, txStart_of_error (r := .typed r) hr]; rfl
  · have hno : ¬ presentable (.typed r) = true := fun hp => by
      have := hpresent.mp hp v hv
      omega
    rw [step_of_events (.inl hheld) he]
    exact if_neg hno

/-- Settles O53: in the invariant the classified frame is held whole, and its length fits the entry. -/
theorem typedViewHasAValueOnlyForItsKind : Obligations.TypedViewHasAValueOnlyForItsKind := by
  intro s e h
  refine ⟨fun hk => ?_, viewEntry_of_ne⟩
  have hok : s.rxStatus = .ok := by
    by_contra hno
    rw [(views_of_not_ok hno).1] at hk; cases hk
  obtain ⟨pay, hpay, -⟩ := h.rx.result hok
  obtain ⟨f, hheld⟩ : ∃ f, heldFrame s = some f := ⟨_, congrArg _ hpay⟩
  obtain ⟨-, -, -, -, hkind⟩ := readings_of_heldFrame hok hheld
  obtain ⟨r, hr, he⟩ := exists_unpackEntry_of_classify (heldFrame_len hheld) (hkind ▸ hk)
  exact ⟨r, viewEntry_of_heldFrame hok hheld (hkind ▸ hk) hr, he⟩

end Sys2Proof.Proofs
end

section
/-! PROOFS. The entries with a layout: the two bytes of a 16-bit field by arithmetic (R18, R29), and the build and the
parse of an entry in the terms of its ranges and its bytes (R34, R70, R71). -/

namespace Sys2Proof

open Sys2Proof.Claims

/-! ### The bytes and the ranges of a field -/

/-- The pattern of an integer is its high byte and its low byte, for every integer. -/
theorem bytesOfHalf_ofInt (v : Int) : bytesOfHalf (BitVec.ofInt 16 v) = [hiByte v, loByte v] := by
  have hhi : BitVec.ofNat 8 ((BitVec.ofInt 16 v).toNat / 256) = hiByte v := by
    apply BitVec.eq_of_toNat_eq
    simp only [hiByte, BitVec.toNat_ofNat, BitVec.toNat_ofInt]; omega
  have hlo : BitVec.ofNat 8 (BitVec.ofInt 16 v).toNat = loByte v := by
    apply BitVec.eq_of_toNat_eq
    simp only [loByte, BitVec.toNat_ofNat, BitVec.toNat_ofInt]; omega
  rw [bytesOfHalf_eq, hhi, hlo]

/-- The unsigned value of a half word's two bytes. -/
theorem zext16_halfOf (hi lo : Byte) : zext16 (halfOf hi lo) = unsigned2 hi lo := by
  rw [zext16, toNat_halfOf, unsigned2]; push_cast; rfl

/-- The signed value of a half word's two bytes. -/
theorem sext16_halfOf (hi lo : Byte) : sext16 (halfOf hi lo) = signed2 hi lo := sext16_eq_toInt (halfOf hi lo)

theorem fitsU8_iff {v : Int} : fitsU8 v = true ↔ 0 ≤ v ∧ v ≤ 255 := decide_eq_true_iff

theorem fitsU16_iff {v : Int} : fitsU16 v = true ↔ 0 ≤ v ∧ v ≤ 65535 := decide_eq_true_iff

theorem fitsI16_iff {v : Int} : fitsI16 v = true ↔ -32768 ≤ v ∧ v ≤ 32767 := decide_eq_true_iff

/-- The operand checks of `STEER_CMD` (R79). -/
theorem fits_steerCmd_iff {speed status angle xte : Int} : (Record.steerCmd speed status angle xte).fits = true ↔
    (0 ≤ speed ∧ speed ≤ 65535) ∧ (0 ≤ status ∧ status ≤ 255) ∧ (-32768 ≤ angle ∧ angle ≤ 32767) ∧
      (-32768 ≤ xte ∧ xte ≤ 32767) := by
  simp only [Record.fits, Bool.and_eq_true, fitsU16_iff, fitsU8_iff, fitsI16_iff, and_assoc]

/-- The operand checks of `STEER_FB` (R81). -/
theorem fits_steerFb_iff {angle switches flags : Int} : (Record.steerFb angle switches flags).fits = true ↔
    (-32768 ≤ angle ∧ angle ≤ 32767) ∧ (0 ≤ switches ∧ switches ≤ 255) ∧ (0 ≤ flags ∧ flags ≤ 255) := by
  simp only [Record.fits, Bool.and_eq_true, fitsU8_iff, fitsI16_iff, and_assoc]

/-! ### Build and parse of an entry -/

/-- Operands that pass the checks are built into their instruction's encoding (R70). -/
theorem msgBuild_of_fits {r : Record} (h : r.fits = true) : msgBuild r = .ok (encode r.instr) :=
  msgBuild_eq_ok_iff.mpr ⟨h, rfl⟩

/-- Operands that fail a check are refused (R70). -/
theorem msgBuild_of_not_fits {r : Record} (h : ¬ r.fits = true) : msgBuild r = .error .invalidArgument := by
  rw [msgBuild_eq, if_neg h]

/-- A frame of an entry's id whose length does not fit the entry is no message (R34). -/
theorem msgParse_eq_none_of_misfit {e : Entry} (src : Byte) {pay : List Byte} (hle : pay.length ≤ 255)
    (h : ¬ e.lengthRule.fits pay.length = true) : msgParse (frameBytes src e.id pay) = none := by
  rw [msgParse_frameBytes _ _ hle, classify_entry, if_neg h, unpackKind]

/-- The frame of a `STEER_CMD` instruction, byte by byte (R79). -/
theorem encode_steerCmd (src : Byte) (speed : Half) (status : Byte) (angle xte : Half) (reserved : List Byte) :
    encode (.steerCmd src speed status angle xte reserved) = frameBytes src 254
      (bytesOfHalf speed ++ [status] ++ bytesOfHalf angle ++ bytesOfHalf xte ++ reserved) := rfl

/-- The frame of a `STEER_FB` instruction, byte by byte (R81). -/
theorem encode_steerFb (src : Byte) (angle : Half) (switches flags : Byte) (reserved : List Byte) :
    encode (.steerFb src angle switches flags reserved) = frameBytes src 253
      (bytesOfHalf angle ++ [switches, flags] ++ reserved) := rfl

/-! ### The meaning of an instruction -/

/-- Executing a well-formed instruction is receiving its payload as its kind, with its message shown (R51, R54, R78). -/
theorem Machine.exists_exec_receives {i : Instr} {pay : List Byte} {m : TypedMessage} (hwf : i.wellFormed = true)
    (hpay : i.payload = pay) (hm : i.message = m) (s : Machine.State) :
    ∃ t, Machine.exec i s = .next t ∧ Receives i.source i.id pay i.kind m s t := by
  subst hpay hm
  exact ⟨_, Machine.exec_eq i s, Machine.receives_of_wellFormed hwf s⟩

end Sys2Proof
end

section
/-! PROOFS. The statements about the steering messages (spec/44_catalog_steering.md). -/

namespace Sys2Proof.Proofs

open Sys2Proof Sys2Proof.Machine Sys2Proof.Claims

/-- Settles O19: the build encodes the instruction of the operands' patterns, and a frame of nine bytes encodes the
instruction of the half words they make. -/
theorem steerCmdBuildAndParse : Obligations.SteerCmdBuildAndParse := by
  refine ⟨fun speed status angle xte hin => ?_, fun speed status angle xte hout => ?_,
    fun src b0 b1 b2 b3 b4 b5 b6 b7 b8 => ?_, fun src pay hle hlen => ?_, rfl, rfl, rfl, rfl⟩
  · rw [msgBuild_of_fits (fits_steerCmd_iff.mpr hin), Record.instr, encode_steerCmd, bytesOfHalf_ofInt,
      bytesOfHalf_ofInt, bytesOfHalf_ofInt]
    rfl
  · exact msgBuild_of_not_fits (mt fits_steerCmd_iff.mp hout)
  · have h := msgParse_encode (i := .steerCmd src (halfOf b0 b1) b2 (halfOf b3 b4) (halfOf b5 b6) [b7, b8]) rfl
    simpa [encode_steerCmd, Instr.message, zext8, zext16_halfOf, sext16_halfOf] using h
  · exact msgParse_eq_none_of_misfit (e := .steerCmd) src hle (mt beq_iff_eq.mp hlen)

/-- Settles O20: the build encodes the instruction of the operands' patterns, and a frame of eight bytes encodes the
instruction of the half word its first two make. -/
theorem steerFbBuildAndParse : Obligations.SteerFbBuildAndParse := by
  refine ⟨fun angle switches flags hin => ?_, fun angle switches flags hout => ?_,
    fun src b0 b1 b2 b3 b4 b5 b6 b7 => ?_, fun src pay hle hlen => ?_, rfl, rfl, rfl⟩
  · rw [msgBuild_of_fits (fits_steerFb_iff.mpr hin), Record.instr, encode_steerFb, bytesOfHalf_ofInt]
    rfl
  · exact msgBuild_of_not_fits (mt fits_steerFb_iff.mp hout)
  · have h := msgParse_encode (i := .steerFb src (halfOf b0 b1) b2 b3 [b4, b5, b6, b7]) rfl
    simpa [encode_steerFb, Instr.message, zext8, sext16_halfOf] using h
  · exact msgParse_eq_none_of_misfit (e := .steerFb) src hle (mt beq_iff_eq.mp hlen)

/-- Settles O27: it is a well-formed instruction with these bytes and these fields. -/
theorem receptionOfSteerCmd : Obligations.ReceptionOfSteerCmd := by
  intro src speed status angle xte r0 r1 s
  exact exists_exec_receives (i := .steerCmd src speed status angle xte [r0, r1]) rfl
    (by simp [Instr.payload, packSteerCmd, bytesOfHalf_eq])
    (by simp [Instr.message, zext16, zext8, sext16_eq_toInt]) s

/-- Settles O28: it is a well-formed instruction with these bytes and these fields. -/
theorem receptionOfSteerFb : Obligations.ReceptionOfSteerFb := by
  intro src angle switches flags r0 r1 r2 r3 s
  exact exists_exec_receives (i := .steerFb src angle switches flags [r0, r1, r2, r3]) rfl
    (by simp [Instr.payload, packSteerFb, bytesOfHalf_eq])
    (by simp [Instr.message, zext8, sext16_eq_toInt]) s

end Sys2Proof.Proofs
end

section
/-! PROOFS. `IMPL_DATA`, the one entry of variable length (R82): its operand checks, its well-formed instructions and
their frames. -/

namespace Sys2Proof

open Sys2Proof.Claims

/-- The sections of a claim are those that the check of the variable array admits (R71). -/
theorem fitsSections_iff_allU8 {vs : List Int} : fitsSections vs = true ↔ vs.length ≤ 238 ∧ allU8 vs := by
  simp only [fitsSections_iff, allU8, List.all_eq_true, fitsU8_iff]

/-- The operand checks of `IMPL_DATA` (R82): the three counts, and every element a byte. -/
theorem fits_implData_iff {lo hi : List Int} {tramline : Int} {sections : List Int} :
    (Record.implData lo hi tramline sections).fits = true ↔
      (lo.length = 8 ∧ hi.length = 8 ∧ sections.length ≤ 238) ∧
        (allU8 lo ∧ allU8 hi ∧ allU8 sections ∧ 0 ≤ tramline ∧ tramline ≤ 255) := by
  simp only [Record.fits, Bool.and_eq_true, fitsArray_iff_allU8, fitsSections_iff_allU8, fitsU8_iff]
  tauto

/-- Two banks of eight bytes and at most 238 sections make an `IMPL_DATA` frame (R82). -/
theorem wellFormed_implData (src : Byte) {lo hi : List Byte} (tramline : Byte) {sections : List Byte}
    (hlo : lo.length = 8) (hhi : hi.length = 8) (hsections : sections.length ≤ 238) :
    (Instr.implData src lo hi tramline sections).wellFormed = true := by
  simp [Instr.wellFormed, hlo, hhi, hsections]

/-- The frame of an `IMPL_DATA` instruction, byte by byte (R82). -/
theorem encode_implData (src : Byte) (lo hi : List Byte) (tramline : Byte) (sections : List Byte) :
    encode (.implData src lo hi tramline sections) = frameBytes src 239 (lo ++ hi ++ [tramline] ++ sections) := rfl

end Sys2Proof
end

section
/-! PROOFS. The statements about the implement controller messages (spec/45_catalog_implement.md). -/

namespace Sys2Proof.Proofs

open Sys2Proof Sys2Proof.Machine Sys2Proof.Claims

/-- Settles O21: the build encodes the instruction of the operands' bytes, and a frame of two banks, a tramline byte and
sections encodes the instruction of these. -/
theorem implDataBuildAndParse : Obligations.ImplDataBuildAndParse := by
  refine ⟨fun lo hi tramline sections hin => ?_, fun lo hi tramline sections hout => ?_,
    fun src lo hi tramline sections hlo hhi hsections => ?_, fun src pay hlen => ?_⟩
  · rw [msgBuild_of_fits (fits_implData_iff.mpr hin), Record.instr, encode_implData, List.map_append, List.map_append,
      List.map_append]
    rfl
  · exact msgBuild_of_not_fits (mt fits_implData_iff.mp hout)
  · rw [← encode_implData, msgParse_encode (wellFormed_implData src tramline hlo hhi hsections)]
    rfl
  · exact msgParse_eq_none_of_misfit (e := .implData) src (by omega)
      (mt of_decide_eq_true (Nat.not_le.mpr hlen))

/-- Settles O29: for every section count it is a well-formed instruction with these bytes and these fields. -/
theorem receptionOfImplData : Obligations.ReceptionOfImplData := by
  intro src lo hi tramline sections s hlo hhi hsections
  exact exists_exec_receives (wellFormed_implData src tramline hlo hhi hsections) rfl rfl s

end Sys2Proof.Proofs
end

section
/-! PROOFS. `IMU_DATA` (R86): its operand checks, its well-formed instructions and their frames. -/

namespace Sys2Proof

/-- The operand checks of `IMU_DATA` (R86): of the two-byte fields, `heading` alone is unsigned. -/
theorem fits_imuData_iff {roll pitch heading yaw calibrated : Int} :
    (Record.imuData roll pitch heading yaw calibrated).fits = true ↔
      (-32768 ≤ roll ∧ roll ≤ 32767) ∧ (-32768 ≤ pitch ∧ pitch ≤ 32767) ∧ (0 ≤ heading ∧ heading ≤ 65535) ∧
        (-32768 ≤ yaw ∧ yaw ≤ 32767) ∧ (0 ≤ calibrated ∧ calibrated ≤ 255) := by
  simp only [Record.fits, Bool.and_eq_true, fitsI16_iff, fitsU16_iff, fitsU8_iff, and_assoc]

/-- Seven reserved bytes, whatever their values, make an `IMU_DATA` frame (R35, R86). -/
theorem wellFormed_imuData (src : Byte) (roll pitch heading yaw : Half) (calibrated : Byte) {reserved : List Byte}
    (h : reserved.length = 7) : (Instr.imuData src roll pitch heading yaw calibrated reserved).wellFormed = true :=
  beq_iff_eq.mpr h

/-- The frame of an `IMU_DATA` instruction, byte by byte (R86). -/
theorem encode_imuData (src : Byte) (roll pitch heading yaw : Half) (calibrated : Byte) (reserved : List Byte) :
    encode (.imuData src roll pitch heading yaw calibrated reserved) = frameBytes src 219
      (bytesOfHalf roll ++ bytesOfHalf pitch ++ bytesOfHalf heading ++ bytesOfHalf yaw ++ [calibrated] ++ reserved) :=
  rfl

end Sys2Proof
end

section
/-! PROOFS. The statements about the inertial unit messages (spec/46_catalog_imu.md). -/

namespace Sys2Proof.Proofs

open Sys2Proof Sys2Proof.Machine Sys2Proof.Claims

/-- Settles O22: the build encodes the instruction of the operands' patterns, and a frame of nine field bytes and seven
reserved ones encodes the instruction of the half words they make. -/
theorem imuDataBuildAndParse : Obligations.ImuDataBuildAndParse := by
  refine ⟨fun roll pitch heading yaw calibrated hin => ?_, fun roll pitch heading yaw calibrated hout => ?_,
    fun src b0 b1 b2 b3 b4 b5 b6 b7 b8 reserved hreserved => ?_, fun src pay hle hlen => ?_, rfl, rfl, rfl, rfl, rfl⟩
  · rw [msgBuild_of_fits (fits_imuData_iff.mpr hin), Record.instr, encode_imuData]
    simp only [bytesOfHalf_ofInt]
    rfl
  · exact msgBuild_of_not_fits (mt fits_imuData_iff.mp hout)
  · have h := msgParse_encode
      (wellFormed_imuData src (halfOf b0 b1) (halfOf b2 b3) (halfOf b4 b5) (halfOf b6 b7) b8 hreserved)
    simpa [encode_imuData, Instr.message, zext8, zext16_halfOf, sext16_halfOf] using h
  · exact msgParse_eq_none_of_misfit (e := .imuData) src hle (mt beq_iff_eq.mp hlen)

/-- Settles O30: with seven reserved bytes it is a well-formed instruction with these bytes and these fields. -/
theorem receptionOfImuData : Obligations.ReceptionOfImuData := by
  intro src roll pitch heading yaw calibrated reserved s hreserved
  exact exists_exec_receives (wellFormed_imuData src roll pitch heading yaw calibrated hreserved)
    (by simp [Instr.payload, packImuData, bytesOfHalf_eq])
    (by simp [Instr.message, zext16, zext8, sext16_eq_toInt]) s

end Sys2Proof.Proofs
end

section
/-! PROOFS. The three module hellos (R89, R90, R91): what makes an entry one, and that this settles its build and its
parse; and when `HELLO.PARSE` and the hello view have a value (R93). The generic frame (R92). -/

namespace Sys2Proof

open Sys2Proof.Claims

/-- Entry `e` is a module hello: its record `mk version` is built into the version and two reserved zero bytes, and read
back from place 0 of the payload (R89, R90, R91). -/
structure IsModuleHello (mk : Int → Record) (e : Entry) : Prop where
  entry : ∀ version, (mk version).entry = e
  lengthRule : e.lengthRule = .fixed 3
  payload : ∀ version,
    payloadOf (mk version) = if fitsU8 version then .ok (putU8 version ++ putReserved 2) else .error .invalidArgument
  unpack : ∀ pay, unpackEntry e pay = (getU8 pay 0).map mk

/-- Build and parse of a module hello (R89, R90, R91). -/
theorem IsModuleHello.helloEntry {mk : Int → Record} {e : Entry} (h : IsModuleHello mk e) :
    HelloEntry mk e.source e.id := by
  refine ⟨fun version hmin hmax => ?_, fun version hout => ?_, fun src version r0 r1 => ?_, fun src pay hle hlen => ?_⟩
  · rw [msgBuild, h.payload, if_pos (fitsU8_iff.mpr ⟨hmin, hmax⟩), h.entry]
    exact frameBuild_eq_ok_iff.mpr ⟨by simp [putU8, putReserved], rfl⟩
  · rw [msgBuild, h.payload, if_neg (mt fitsU8_iff.mp hout)]
  · have hfits : e.lengthRule.fits [version, r0, r1].length = true := by rw [h.lengthRule]; rfl
    rw [msgParse_frameBytes _ _ (by simp), classify_entry, if_pos hfits, unpackKind, h.unpack]
    rfl
  · have hmisfit : ¬ e.lengthRule.fits pay.length = true := by rw [h.lengthRule]; exact mt beq_iff_eq.mp hlen
    exact msgParse_eq_none_of_misfit src hle hmisfit

/-- Three entries name a module (R93). -/
theorem Entry.helloModule_eq_some_iff {e : Entry} {m : ModuleKind} : e.helloModule = some m ↔
    e = .helloSteer ∧ m = .steeringActuator ∨ e = .helloImpl ∧ m = .implementController ∨
      e = .helloImu ∧ m = .inertialUnit := by
  cases e <;> simp [helloModule, eq_comm]

/-- The payload of an entry that names a module has three bytes (R31). -/
theorem Entry.fits_iff_of_helloModule {e : Entry} {m : ModuleKind} (h : e.helloModule = some m) (n : Nat) :
    e.lengthRule.fits n = true ↔ n = 3 := by
  rcases helloModule_eq_some_iff.mp h with ⟨rfl, -⟩ | ⟨rfl, -⟩ | ⟨rfl, -⟩ <;> exact beq_iff_eq

/-- `HELLO.PARSE` has a value on the three-byte frames of the entries that name a module, whatever the source and the
reserved bytes, and on no other packet (R93). -/
theorem helloParse_eq_some_iff {bs : List Byte} {m : ModuleKind} {v : Int} : helloParse bs = some (m, v) ↔
    ∃ (e : Entry) (src version r0 r1 : Byte), e.helloModule = some m ∧ v = zext8 version ∧
      bs = frameBytes src e.id [version, r0, r1] := by
  constructor
  · intro h
    cases hf : frameParse bs with
    | error e => rw [helloParse, msgParse, hf] at h; cases h
    | ok f =>
      rcases msgParse_cases hf with ⟨-, hparse⟩ | ⟨-, hparse⟩ | ⟨e, r, hclass, hr, he, hparse⟩
      · rw [helloParse, hparse] at h; cases h
      · rw [helloParse, hparse] at h; cases h
      · rw [helloParse_of_record hparse hr he, Option.bind_eq_some_iff] at h
        obtain ⟨m', hm, hversion⟩ := h
        obtain ⟨version, hfirst, hmv⟩ := Option.map_eq_some_iff.mp hversion
        cases hmv
        obtain ⟨hid, hfits⟩ := classify_eq_entry_iff.mp hclass
        obtain ⟨-, -, rfl⟩ := frameParse_eq_ok_iff.mp hf
        rw [Entry.fits_iff_of_helloModule hm, ← length_pay_of_frameParse hf, List.length_eq_three] at hfits
        obtain ⟨b, r0, r1, hpay⟩ := hfits
        obtain rfl : b = version := by simpa [hpay] using hfirst
        exact ⟨e, f.src, b, r0, r1, hm, rfl, by rw [hid, hpay]⟩
  · rintro ⟨e, src, version, r0, r1, hm, rfl, rfl⟩
    have hfits := (Entry.fits_iff_of_helloModule hm [version, r0, r1].length).mpr rfl
    obtain ⟨r, hr, he⟩ := exists_unpackEntry hfits (by simp)
    have hparse : msgParse (frameBytes src e.id [version, r0, r1]) = some (.record r) := by
      rw [msgParse_frameBytes _ _ (by simp), classify_entry, if_pos hfits, unpackKind, hr, Option.map_some]
    rw [helloParse_of_record hparse hr he, hm]
    rfl

/-- An id outside the catalog and a payload that the length byte counts make a generic frame (R33, R92). -/
theorem wellFormed_generic (src : Byte) {id : Byte} {pay : List Byte} (hid : Entry.ofId id = none)
    (hle : pay.length ≤ 255) : (Instr.generic src id pay).wellFormed = true := by
  simp [Instr.wellFormed, hid, hle]

namespace Machine

/-- Which kinds name module `m` (R93). -/
theorem exists_rxKind_helloModule_iff {s : State} {m : ModuleKind} :
    (∃ e, rxKind s = .entry e ∧ e.helloModule = some m) ↔
      rxKind s = .entry .helloSteer ∧ m = .steeringActuator ∨
        rxKind s = .entry .helloImpl ∧ m = .implementController ∨
        rxKind s = .entry .helloImu ∧ m = .inertialUnit := by
  simp only [Entry.helloModule_eq_some_iff, and_or_left, exists_or, and_left_comm, exists_eq_left]

/-- The hello view has a value exactly while `RX_KIND` is an entry that names a module and `RX_PAY[0]` has a value; it
is these two (R93). -/
theorem viewHello_eq_some_iff {s : State} {m : ModuleKind} {v : Int} : viewHello s = some (m, v) ↔
    (∃ e, rxKind s = .entry e ∧ e.helloModule = some m) ∧ ∃ b, readRxPay s 0 = .ok b ∧ v = zext8 b := by
  rw [viewHello]
  cases rxKind s with
  | none => simp
  | generic => simp
  | entry e =>
    simp only [Kind.entry.injEq, exists_eq_left']
    cases e.helloModule <;> cases readRxPay s 0 <;> simp [eq_comm]

/-- In the invariant, `RX_PAY[0]` has a value while `RX_KIND` is an entry that names a module (R15, R31). -/
theorem BlockInv.exists_readRxPay_zero {s : State} {e : Entry} {m : ModuleKind} (h : BlockInv s)
    (hk : rxKind s = .entry e) (hm : e.helloModule = some m) : ∃ b, readRxPay s 0 = .ok b := by
  rw [rxKind] at hk
  split_ifs at hk with hok
  obtain ⟨-, hfits⟩ := classify_eq_entry_iff.mp hk
  have hlen := (Entry.fits_iff_of_helloModule hm _).mp hfits
  obtain ⟨b, -, hread⟩ := readRxPay_eq_ok h.rx hok (k := 0) (by omega)
  exact ⟨b, hread⟩

/-- In the invariant, the hello view has a value exactly while `RX_KIND` is an entry that names a module (R93). -/
theorem BlockInv.isSome_viewHello_iff {s : State} (h : BlockInv s) :
    (viewHello s).isSome ↔ ∃ m e, rxKind s = .entry e ∧ e.helloModule = some m := by
  rw [Option.isSome_iff_exists]
  constructor
  · rintro ⟨⟨m, v⟩, hview⟩
    exact ⟨m, (viewHello_eq_some_iff.mp hview).1⟩
  · rintro ⟨m, e, hk, hm⟩
    obtain ⟨b, hb⟩ := h.exists_readRxPay_zero hk hm
    exact ⟨(m, zext8 b), viewHello_eq_some_iff.mpr ⟨⟨e, hk, hm⟩, b, hb, rfl⟩⟩

/-- Executing a well-formed module hello is receiving its frame, and the hello view then names the entry's module and
the version (R54, R93). -/
theorem exists_exec_receives_hello {i : Instr} {e : Entry} {m : ModuleKind} {version : Byte} {reserved : List Byte}
    (hwf : i.wellFormed = true) (hk : i.kind = .entry e) (hm : e.helloModule = some m)
    (hpay : i.payload = version :: reserved) (s : State) :
    ∃ t, exec i s = .next t ∧ Receives i.source i.id (version :: reserved) (.entry e) i.message s t ∧
      viewHello t = some (m, zext8 version) := by
  obtain ⟨t, hexec, hrec⟩ := exists_exec_receives hwf hpay rfl s
  rw [hk] at hrec
  have ⟨_, _, _, _, _, _, hread, hkind, _⟩ := hrec
  exact ⟨t, hexec, hrec, viewHello_eq_some_iff.mpr ⟨⟨e, hkind, hm⟩, version, hread 0 (by simp), rfl⟩⟩

end Machine
end Sys2Proof
end

section
/-! PROOFS. The statements about the hello messages and the generic frame (spec/47_catalog_hello_scan.md). -/

namespace Sys2Proof.Proofs

open Sys2Proof Sys2Proof.Machine Sys2Proof.Claims

/-- Settles O24: the three entries are module hellos. -/
theorem moduleHellosBuildAndParse : Obligations.ModuleHellosBuildAndParse :=
  ⟨IsModuleHello.helloEntry (e := .helloSteer) ⟨fun _ => rfl, rfl, fun _ => rfl, fun _ => rfl⟩,
    IsModuleHello.helloEntry (e := .helloImpl) ⟨fun _ => rfl, rfl, fun _ => rfl, fun _ => rfl⟩,
    IsModuleHello.helloEntry (e := .helloImu) ⟨fun _ => rfl, rfl, fun _ => rfl, fun _ => rfl⟩⟩

/-- Settles O26: the parse has a value on a module's three-byte frames only, and in the invariant the version's place
has a value while `RX_KIND` is a module hello. -/
theorem helloParseNamesModuleAndVersion : Obligations.HelloParseNamesModuleAndVersion := by
  refine ⟨fun src version r0 r1 => ⟨?_, ?_, ?_⟩, fun bs hbs => ?_, fun s hs => ⟨fun m v => ?_, ?_⟩⟩
  · exact helloParse_eq_some_iff.mpr ⟨.helloSteer, src, version, r0, r1, rfl, rfl, rfl⟩
  · exact helloParse_eq_some_iff.mpr ⟨.helloImpl, src, version, r0, r1, rfl, rfl, rfl⟩
  · exact helloParse_eq_some_iff.mpr ⟨.helloImu, src, version, r0, r1, rfl, rfl, rfl⟩
  · refine Option.eq_none_iff_forall_ne_some.mpr fun ⟨m, v⟩ h => ?_
    obtain ⟨e, src, version, r0, r1, hm, -, hframe⟩ := helloParse_eq_some_iff.mp h
    obtain ⟨hsteer, himpl, himu⟩ := hbs src version r0 r1
    rcases Entry.helloModule_eq_some_iff.mp hm with ⟨rfl, -⟩ | ⟨rfl, -⟩ | ⟨rfl, -⟩
    · exact hsteer hframe
    · exact himpl hframe
    · exact himu hframe
  · rw [viewHello_eq_some_iff, exists_rxKind_helloModule_iff]
    rfl
  · rw [hs.isSome_viewHello_iff]
    simp only [exists_rxKind_helloModule_iff, exists_or, exists_and_left, exists_eq, and_true]

/-- Settles O32: each is a well-formed module hello. -/
theorem receptionOfModuleHellos : Obligations.ReceptionOfModuleHellos := by
  intro src version r0 r1 s
  exact ⟨exists_exec_receives_hello (i := .helloSteer src version [r0, r1]) rfl rfl rfl rfl s,
    exists_exec_receives_hello (i := .helloImpl src version [r0, r1]) rfl rfl rfl rfl s,
    exists_exec_receives_hello (i := .helloImu src version [r0, r1]) rfl rfl rfl rfl s⟩

/-- Settles O33: it is a well-formed instruction, whose message is its id and its payload. -/
theorem receptionOfGeneric : Obligations.ReceptionOfGeneric := by
  intro src id pay s hle hid
  exact exists_exec_receives (wellFormed_generic src ((ofId_eq_none_iff id).mpr hid) hle) rfl rfl s

end Sys2Proof.Proofs
end

section
/-! PROOFS. When a unit shows no result (R15), the final byte of a packet that fails a test (R101), and what `Reset`
leaves of any state (R107). -/

namespace Sys2Proof.Machine

open Sys2Proof.Claims

/-- While the status is not `OK` no RX result register has a value (R15). -/
theorem noRxResult_of_not_ok {t : State} (h : t.rxStatus ≠ .ok) : NoRxResult t :=
  ⟨if_neg h, if_neg h, if_neg h, fun _ => readRxPay_eq_error fun hc => h hc.1, if_neg h⟩

/-- Without a packet `TX_N` and `TX_PKT` have no value (R15). -/
theorem noTxResult_of_not_txHasPacket {t : State} (h : ¬ txHasPacket t = true) : NoTxResult t :=
  ⟨if_neg h, fun _ => readTxPkt_eq_error fun hc => h hc.1⟩

/-- An error verdict ends the packet and runs nothing, whatever the registers hold (R54, R101). -/
theorem rxLast_of_error {b : Byte} {s : State} (h : rxVerdict b s ≠ .ok) :
    rxLast b s = .next (rxFinish (rxVerdict b s) s) := if_neg h

/-- `Reset` puts the block, in whatever state, at the table of R107. -/
theorem afterReset_resetBlock (s : State) : AfterReset (resetBlock s) := by
  have hrx : (resetBlock s).rxStatus ≠ .ok := nofun
  have htx : ¬ txHasPacket (resetBlock s) = true := nofun
  exact ⟨rfl, rfl, rfl, rfl, rfl, rfl, noRxResult_of_not_ok hrx, noTxResult_of_not_txHasPacket htx,
    fun _ _ _ => ⟨rfl, rfl, rfl⟩⟩

/-- The state after reset is one that `Reset` leaves. -/
theorem resetBlock_reset : resetBlock State.reset = State.reset := rfl

end Sys2Proof.Machine
end

section
/-! PROOFS. The statements about errors (spec/60_exceptions.md) and reset (spec/70_reset_and_hazards.md), and the frames
written out in spec/95_test_vectors.md. -/

namespace Sys2Proof.Proofs

open Sys2Proof Sys2Proof.Machine Sys2Proof.Claims

/-- Settles O51: either error is one write of a status under which the unit's result registers have no value. -/
theorem errorsChangeTheStatusOnly : Obligations.ErrorsChangeTheStatusOnly := by
  refine ⟨fun s b es hq he hv => ?_, fun r s es hheld hfree he hp hr => ?_⟩
  · have hstep : step s = .next (rxFinish (rxVerdict b s) { s with events := es }) :=
      (step_of_events hq he).trans (rxLast_of_error (s := { s with events := es }) hv)
    exact ⟨_, hstep, rfl, noRxResult_of_not_ok hv⟩
  · have hstep : step s = .next (txRefuse { s with events := es }) := by
      rw [step_txBuild hheld hfree hp he, txStart_of_error hr]
    exact ⟨_, hstep, rfl, noTxResult_of_not_txHasPacket nofun⟩

/-- Settles O54: `Reset` leaves the table of R107 in any state, this one included. -/
theorem resetStateIsAsSpecified : Obligations.ResetStateIsAsSpecified := by
  rw [Obligations.ResetStateIsAsSpecified, ← resetBlock_reset]
  exact afterReset_resetBlock State.reset

/-- Settles O55: the step is `Reset`, which gives back the environment's side. -/
theorem resetEventActsInAnyState : Obligations.ResetEventActsInAnyState := by
  intro s es hq he
  exact ⟨resetBlock { s with events := es }, step_of_events hq he, afterReset_resetBlock _, rfl, rfl, rfl⟩

/-- Settles O56: `Reset` leaves the invariant in any state, this one included. -/
theorem invariantHoldsAfterReset : Obligations.InvariantHoldsAfterReset := by
  rw [Obligations.InvariantHoldsAfterReset, ← resetBlock_reset]
  exact resetBlock_inv State.reset

/-- Settles O15: the six frames that are instructions are the encodings of these, and the other two fail by
computation. -/
theorem framesOfTheSpecDecode : Obligations.FramesOfTheSpecDecode :=
  ⟨decodeOfEncodeIsTheInstruction (.steerCmd 0x7F 105 1 525 150 [0, 0]) rfl,
    decodeOfEncodeIsTheInstruction (.steerFb 0x7E 0xFEA2 3 128 [0, 0, 0, 0]) rfl,
    decodeOfEncodeIsTheInstruction
      (.implData 0x7F [1, 0, 1, 0, 1, 0, 1, 0] [0, 0, 0, 0, 0, 0, 0, 1] 2 [0xAA, 0x55]) rfl,
    decodeOfEncodeIsTheInstruction (.imuData 0x79 0xFF83 200 35999 0xFFF9 1 [0, 0, 0, 0, 0, 0, 0]) rfl,
    decodeOfEncodeIsTheInstruction (.helloSteer 0x7E 5 [0, 0]) rfl,
    decodeOfEncodeIsTheInstruction (.generic 0x7F 100 []) rfl,
    by decide, by decide⟩

end Sys2Proof.Proofs
end
